-- ==== Sys2Proof/Word.lean ====
section
/-! DEFINITION. The word types: bytes, 16-bit registers, 32-bit keys and numbers, the addresses of exchange memory, lane and
slot numbers (00_scope.md, section 5.2). -/

namespace Sys2Proof

/-- A byte (00_scope.md, 5.2). -/
abbrev Byte := BitVec 8

/-- A register of the bus port, and a 16-bit field (00_scope.md, 5.2). -/
abbrev Word := BitVec 16

/-- A key, a sequence or an epoch (R7, R12, R13). -/
abbrev Long := BitVec 32

/-- An address of exchange memory, 0000hex to 7FFFhex (R81, R84). -/
abbrev Addr := BitVec 15

/-- A lane number, 0 to 3 (R1). -/
abbrev Lane := Fin 4

/-- A slot number, 0 to 31 (R96). -/
abbrev SlotNo := Fin 32

end Sys2Proof
end

