-- ==== Sys2Proof/Syntax.lean ====
section
/-! DEFINITION. The commands the KJ-4 takes, one constructor per row of spec/opcode_table.json, and their operands. -/

namespace Sys2Proof

/-- The straps sampled at the release of RESET_N (R76). -/
structure Straps where
  busSel : BitVec 2
  byteOrd : Bool
  sid : Bool
  cfgSel : BitVec 2
  deriving DecidableEq, Repr

/-- The registers a REGISTER_WRITE row speaks of: those whose write has no row of its own (R81, R77). -/
inductive PlainReg where
  | pointer | winStart | winEnd | take
  deriving DecidableEq, Repr

/-- Every register but DATA: the registers of a low-byte access of the 8-bit mode (R79). -/
inductive ByteReg where
  | pointer | winStart | winEnd | post | take | control | notice
  deriving DecidableEq, Repr

/-- The commands. A data operand `d` is what the host drives: D[15:0] in the 16-bit mode, D[7:0] in the low eight bits in
the 8-bit mode, the sixteen bits of one value in the serial mode (R78 to R80). -/
inductive Instr where
  /-- RESET_N falls (R186). -/
  | resetAssert
  /-- RESET_N is released with these straps (R76, R186). -/
  | resetRelease (straps : Straps)
  /-- The zeroing of exchange memory ends (R86). -/
  | zeroingEnd
  /-- A write to POINTER, WINSTART, WINEND or TAKE; in the 8-bit mode its high-byte write (R79, R81). -/
  | registerWrite (r : PlainReg) (d : Word)
  /-- A low-byte write of the 8-bit mode (R79). -/
  | lowByteWrite (r : ByteReg) (b : Byte)
  /-- A DATA read (R82). -/
  | dataRead
  /-- A DATA write (R83). -/
  | dataWrite (d : Word)
  /-- A POST write; in the 8-bit mode its high-byte write (R98). -/
  | post (d : Word)
  /-- A TAKE read; in the 8-bit mode its low-byte read (R109). -/
  | take
  /-- A CONTROL write, its levels acted on first (R178). -/
  | hold (d : Word)
  /-- A CONTROL write, its levels acted on first and its cut before its clear (R178). -/
  | park (d : Word)
  /-- A CONTROL write, its clear request acted on first (R185). -/
  | clear (d : Word)
  /-- A CONTROL write, its cut request acted on first (R146). -/
  | cut (d : Word)
  /-- A NOTICE write; in the 8-bit mode its high-byte write (R90). -/
  | noticeWrite (d : Word)
  /-- A pending clear takes effect (R185). -/
  | clearTakesEffect
  /-- PWARN is asserted (R179). -/
  | pwarnAssert
  /-- PWARN is deasserted (R179). -/
  | pwarnDeassert
  /-- WINH is asserted (R135). -/
  | winhAssert
  /-- WINH is deasserted (R44). -/
  | winhDeassert
  /-- STORE_GOOD is asserted (R165, R183). -/
  | storeGoodRise
  /-- STORE_GOOD falls (R70). -/
  | storeGoodFall
  /-- The mount settle count reaches 1 ms (R165). -/
  | storeGoodSettled
  /-- A lane controller makes a grant (R66). -/
  | laneGrant (lane : Lane)
  /-- An IDENTIFY ends at the ready return with this response frame, low byte first (R58, R59). -/
  | identifyEnd (lane : Lane) (lo hi : Byte)
  /-- A READ LINE ends at the ready return with these 256 bytes (R62). -/
  | readLineEnd (lane : Lane) (bytes : List Byte)
  /-- A PROGRAM LINE ends at the ready return with this status, 00hex pass (R59, R63). -/
  | programLineEnd (lane : Lane) (status : Byte)
  /-- An ERASE SEGMENT ends at the ready return with this status, 00hex pass (R59, R64). -/
  | eraseSegmentEnd (lane : Lane) (status : Byte)
  /-- The time limit of a lane's operation expires (R68). -/
  | timeLimitExpiry (lane : Lane)
  /-- The head order, a PUT, is dispatched (R116). -/
  | put
  /-- The head order, a GET, is dispatched (R119). -/
  | get
  /-- The head order, a DROP, is dispatched (R117). -/
  | drop
  /-- The head order, a SCAN, is dispatched (R137). -/
  | scan
  /-- The head order, a RECLAIM, is dispatched (R158). -/
  | reclaim
  /-- The head order, a FORMAT, is dispatched (R160). -/
  | format
  /-- The head order, a SURVEY, is dispatched (R122). -/
  | survey
  /-- The head order, of a kind not 1 to 7, is dispatched and refused (R105). -/
  | badKind
  /-- The head writer grants the record unit's request (R125). -/
  | orderAppendGrant
  /-- The head writer grants the reclaim unit's request (R126). -/
  | copyGrant
  /-- The format control takes the segment table (R161). -/
  | formatTakeTable
  /-- Quiet is reached (R181). -/
  | quietReached
  /-- The wake settle count reaches 1 ms (R183). -/
  | wakeSettled
  /-- The 100 ms wake limit expires (R183). -/
  | wakeLimit
  /-- The reference clock stops (R184). -/
  | clockStop
  /-- The reference clock returns (R184). -/
  | clockReturn
  /-- The 1 ms return count ends (R184). -/
  | returnCountEnd
  /-- The scan unit acts at an entry boundary (R138). -/
  | entryBoundary
  /-- A low-byte read of the 8-bit mode (R79). -/
  | lowByteRead (r : ByteReg)
  /-- SEL_N goes low (R80). -/
  | transactionStart
  /-- The eighth bit of a start byte is sampled (R80). -/
  | startByte (b : Byte)
  /-- SEL_N goes high (R80). -/
  | transactionEnd
  deriving DecidableEq, Repr

end Sys2Proof
end

