-- ==== Sys2Proof/Config.lean ====
section
/-! DEFINITION. The free values: what the spec leaves open. -/

namespace Sys2Proof

/-- What a host read returns while the reference clock is stopped outside PARK: R184 says that every block stops where it
stands and states no value. FREE VALUE, numbered by `Part.freeIndex` (log 10). -/
opaque Config.clockStoppedRead : Nat → Word

end Sys2Proof
end

