-- ==== Sys2Proof/Machine/State.lean ====
section
/-! DEFINITION. The state of the KJ-4, plain data, block by block, and its value right after reset. -/

namespace Sys2Proof.Machine

/-! ## Faults and refusals -/

/-- The reasons for which the part itself would stop. The spec names none: every failure it describes is an outcome in a
slot, a notice flag or a block's state, so nothing raises a fault. -/
inductive Fault where
  deriving DecidableEq, Repr

/-- The reasons for which the model gives a command no meaning. -/
inductive Refusal where
  /-- Raised by a dispatch arm whose command has no meaning yet; safe (no arm does). -/
  | notModelled (mnemonic : String)
  /-- Raised by READ_LINE_END when its operand is not the 256 bytes of a line; safe (R59 gives the frame 256 bytes). -/
  | illFormed (mnemonic : String)
  deriving DecidableEq, Repr

/-! ## Per-lane data -/

/-- One value for each of the four lanes. -/
structure Quad (α : Type) where
  l0 : α
  l1 : α
  l2 : α
  l3 : α
  deriving DecidableEq, Repr

/-- The same value for every lane. -/
def Quad.all {α : Type} (x : α) : Quad α := ⟨x, x, x, x⟩

/-- A segment address: lane and segment index (R1). -/
structure SegAddr where
  lane : Lane
  seg : Nat
  deriving DecidableEq, Repr

/-- A record's location: the address of its first line (R17). -/
structure RecLoc where
  addr : SegAddr
  line : Nat
  deriving DecidableEq, Repr

/-! ## Inputs -/

/-- The level inputs that power, lanes and the head writer act on (00_scope section 4). -/
structure Inputs where
  pwarn : Bool
  winh : Bool
  storeGood : Bool
  deriving DecidableEq, Repr

/-! ## Bus port -/

/-- The eight registers (R77). -/
inductive Reg where
  | pointer | data | winStart | winEnd | post | take | control | notice
  deriving DecidableEq, Repr

/-- The bus modes (R76). -/
inductive BusMode where
  | word16 | byte8 | serial
  deriving DecidableEq, Repr

/-- Where the serial link stands in a transaction (R80). -/
inductive Serial where
  | idle
  | awaitStart
  | ignoring
  | framed (reg : Reg) (read : Bool)
  deriving DecidableEq, Repr

/-- The seven sticky notices (R89); DONE follows the done list and is not one of them. -/
inductive Sticky where
  | postReject | laneOffline | saturated | reclaimHalted | mountEnded | braced | configAdjusted
  deriving DecidableEq, Repr

/-- The bus port's own state (R76 to R92). -/
structure Bus where
  busSel : BitVec 2
  byteOrd : Bool
  sid : Bool
  cfgSel : BitVec 2
  pointer : Addr
  winStart : Addr
  winEnd : Addr
  readLatch : Word
  writeHold : Byte
  readCapture : Byte
  holdLevel : Bool
  parkLevel : Bool
  /-- the sticky flags, each in its NOTICE bit; bit 0 is never set -/
  sticky : Byte
  mask : Byte
  serial : Serial
  /-- what the last read left on the data pins or SDO; none where nothing is driven -/
  dataOut : Option Word
  deriving DecidableEq, Repr

/-! ## Exchange memory -/

/-- Exchange memory: the bytes that differ from 00hex, addresses strictly rising (R84, R86). -/
abbrev Mem := List Host.Cell

/-! ## Order block -/

/-- The phase of a slot in the slot table (R96). -/
inductive Phase where
  | idle | queued | running | done
  deriving DecidableEq, Repr

/-- An entry of the slot table (R96). -/
structure SlotEntry where
  held : Bool
  phase : Phase
  deriving DecidableEq, Repr

/-- The last post outcome (R99). -/
inductive PostOutcome where
  | none | accepted | badSlot | held | full | configTaken
  deriving DecidableEq, Repr

/-- Which configuration word the next POST write gives, or that intake has ended (R102). -/
inductive Intake where
  | low | high | post | ended
  deriving DecidableEq, Repr

/-- The order block's own state but for the format control (R96 to R102). -/
structure Orders where
  slots : Vector SlotEntry 32
  postQueue : List SlotNo
  doneList : List SlotNo
  lastPost : PostOutcome
  intake : Intake
  lowMark : Nat
  highMark : Nat
  postMark : Nat
  deriving DecidableEq, Repr

/-- The order fields read at dispatch (R93, R104). -/
structure OrderFields where
  kind : Byte
  options : Byte
  step : Byte
  mode : Byte
  key : Long
  keyHi : Long
  bufOffset : Word
  bufLength : Word
  cmpOffset : Word
  patLength : Byte
  pattern : List Byte
  deriving DecidableEq, Repr

/-- The classes (R110). -/
inductive Class where
  | ok | partly | fault | refused
  deriving DecidableEq, Repr

/-- The reasons (R111). -/
inductive Reason where
  | none | badKind | badKey | badLength | badBuffer | badRange | notMounted
  | notFound | mismatch | shortBuffer | headerCheck | dataCheck | staleTag | laneOffline | laneTimeout
  | programFault | journalFull | directoryFull | writeInhibited | sequenceSpent | saturated | reclaimHalted
  | areaFull | cut
  deriving DecidableEq, Repr

/-- An order's outcome: class, reason, marks and the result fields (R93, R112). -/
structure Result where
  cls : Class
  reason : Reason
  retried : Bool := false
  damagedSeen : Bool := false
  sequence : Long := 0
  length : Word := 0
  examined : Word := 0
  resume : Long := 0
  damaged : Byte := 0
  deriving DecidableEq, Repr

/-- The format control while a FORMAT is in progress (R160 to R162). -/
structure FormatJob where
  slot : SlotNo
  /-- the segment table has been taken -/
  taken : Bool
  waitSet : List SegAddr
  bad : Nat
  deriving DecidableEq, Repr

/-! ## Records as read -/

/-- The fields of a record header as read from a line (R7). -/
structure RecHeader where
  kind : Byte
  flags : Byte
  length : Nat
  key : Long
  sequence : Long
  tag : Word
  deriving DecidableEq, Repr

/-- The running payload check of a record being read line by line: the check register, and the stored check bytes met so far
(R5, R7). -/
structure PayloadRun where
  crc : Long
  stored : List Byte
  deriving DecidableEq, Repr

/-! ## Key directory -/

/-- An entry of the key directory (R17). -/
structure DirEntry where
  key : Long
  sequence : Long
  gone : Bool
  loc : RecLoc
  length : Nat
  lines : Nat
  deriving DecidableEq, Repr

/-! ## Record unit -/

/-- The read progress of a GET (R115). -/
structure GetRead where
  entry : DirEntry
  /-- the index within the record of the line awaited -/
  next : Nat
  /-- payload bytes delivered so far -/
  delivered : Nat
  run : PayloadRun
  /-- the segment whose readers count is held -/
  holds : SegAddr
  deriving DecidableEq, Repr

/-- The step a record order stands at between commands (R115). -/
inductive RecordStep where
  | waiting
  | reading (g : GetRead)
  deriving DecidableEq, Repr

/-- The order in the record unit (R115). -/
structure RecordOrder where
  slot : SlotNo
  fields : OrderFields
  step : RecordStep
  deriving DecidableEq, Repr

/-! ## Scan unit -/

/-- The entry in hand of a SCAN with its read progress (R136). -/
structure ScanHand where
  entry : DirEntry
  next : Nat
  headerJudged : Bool
  /-- the sequence read from the record's header -/
  readSequence : Long
  run : PayloadRun
  compare : Ordering
  holds : SegAddr
  deriving DecidableEq, Repr

/-- The SCAN in the scan unit (R136). -/
structure ScanOrder where
  slot : SlotNo
  fields : OrderFields
  cursor : Long
  skip : Nat
  hits : Nat
  examined : Nat
  damaged : Nat
  inHand : Option ScanHand
  cutPending : Bool
  deriving DecidableEq, Repr

/-! ## Head writer -/

/-- The record unit's request (R116, R117, R123). -/
structure OrderReq where
  tombstone : Bool
  key : Long
  length : Nat
  bufOffset : Word
  lines : Nat
  /-- the sequence it has consumed, if any -/
  sequence : Option Long
  waitingRoom : Bool
  deriving DecidableEq, Repr

/-- The reclaim unit's request (R126). -/
structure CopyReq where
  key : Long
  sequence : Long
  length : Nat
  lines : Nat
  loc : RecLoc
  /-- the original's lines, one after another -/
  bytes : List Byte
  deriving DecidableEq, Repr

/-- What an append carries (R123). -/
inductive Work where
  | order (r : OrderReq)
  | copy (c : CopyReq)
  deriving DecidableEq, Repr

/-- Why a head is being closed (R127, R133). -/
inductive CloseCause where
  | noRoom | firstFailure | secondFailure
  deriving DecidableEq, Repr

/-- The step of the append in progress (R123). -/
inductive AppendStep where
  | placing
  | closing (a : SegAddr) (cause : CloseCause)
  | opening (a : SegAddr)
  | programming (a : SegAddr) (first : Nat)
  deriving DecidableEq, Repr

/-- Why an append is to be set back (R135). -/
inductive SetBack where
  | winh | power
  deriving DecidableEq, Repr

/-- The append in progress (R123). -/
structure Append where
  work : Work
  /-- the sequence of an order append; a copy keeps the original's (R11) -/
  sequence : Long
  /-- it makes its repeated attempt -/
  repeated : Bool
  step : AppendStep
  /-- lines programmed in the current attempt -/
  done : Nat
  /-- at least one of its record lines has been programmed -/
  started : Bool
  /-- the running payload check over the bytes taken -/
  crc : Long
  /-- a set-back that waits for the program in flight -/
  setBack : Option SetBack
  deriving DecidableEq, Repr

/-- The two requesters of the head writer (R123). -/
inductive Appender where
  | recordUnit | reclaimUnit
  deriving DecidableEq, Repr

/-- The head writer (R123). -/
structure Head where
  seqCounter : Long
  epochCounter : Long
  recordsInHead : Nat
  append : Option Append
  orderReq : Option OrderReq
  copyReq : Option CopyReq
  lastGranted : Appender
  deriving DecidableEq, Repr

/-! ## Segment table -/

/-- The segment states (R37). -/
inductive SegState where
  | unswept | free | opening | head | closed | reclaiming | eraseWait | erasing | bad
  deriving DecidableEq, Repr

/-- An entry of the segment table (R35). -/
structure SegEntry where
  state : SegState
  epoch : Long
  used : Nat
  claimed : Nat
  goodEnd : Nat
  trailered : Bool
  readers : Nat
  retire : Bool
  deriving DecidableEq, Repr

/-- The fields every entry outside the chain and ERASE_WAIT has (R38, R45). -/
def SegEntry.cleared (st : SegState) : SegEntry :=
  { state := st, epoch := 0, used := 0, claimed := 0, goodEnd := 1, trailered := false, readers := 0, retire := false }

/-! ## Lane controllers -/

/-- The six requesters of a lane (R65, R66). -/
inductive Requester where
  | mount | record | scan | reclaim | head | erase
  deriving DecidableEq, Repr

/-- The lane states (R57). -/
inductive LaneState where
  | unknown | absent | present | offline
  deriving DecidableEq, Repr

/-- The four store operations (R61 to R64). -/
inductive StoreOp where
  | identify
  | readLine (seg line : Nat)
  | programLine (seg line : Nat) (bytes : List Byte)
  | eraseSegment (seg : Nat)
  deriving DecidableEq, Repr

/-- A waiting request; the mark is the head writer's (R67). -/
structure Request where
  op : StoreOp
  continuing : Bool
  deriving DecidableEq, Repr

/-- The operation in flight, its running time limit in milliseconds (R68), and whether its requester discards its result
(R73). -/
structure InFlight where
  requester : Requester
  op : StoreOp
  limitMs : Nat
  discard : Bool
  deriving DecidableEq, Repr

/-- The waiting requests of a lane, at most one per requester (R57). -/
structure Waiting where
  mount : Option Request
  record : Option Request
  scan : Option Request
  reclaim : Option Request
  head : Option Request
  erase : Option Request
  deriving DecidableEq, Repr

/-- No request waits. -/
def Waiting.empty : Waiting := ⟨none, none, none, none, none, none⟩

/-- The lane record (R57), with whether the part drives LnCK (R69, R73). -/
structure LaneRec where
  state : LaneState
  count : Nat
  inFlight : Option InFlight
  /-- the next request of the requester in flight, when it has dropped the work of the operation in flight: it is placed when
  that operation's result reaches the requester (R65, R73) -/
  heldBack : Option Request
  waiting : Waiting
  lastGranted : Requester
  linkDriven : Bool
  deriving DecidableEq, Repr

/-- The lane record after full reset (R57). -/
def LaneRec.reset : LaneRec := ⟨.unknown, 0, none, none, .empty, .erase, false⟩

/-! ## Reclaim unit -/

/-- The reclaim states (R149). -/
inductive ReclaimState where
  | idle | copying | stalled | halted
  deriving DecidableEq, Repr

/-- The record in hand of the walk (R149, R152). -/
structure Hand where
  header : RecHeader
  first : Nat
  lines : Nat
  got : Nat
  bytes : List Byte
  deriving DecidableEq, Repr

/-- What began a pass (R149). -/
inductive Origin where
  | trigger | order
  deriving DecidableEq, Repr

/-- An attached RECLAIM order (R149, R155). -/
structure Attached where
  slot : SlotNo
  seg : SegAddr
  recorded : Option Nat
  deriving DecidableEq, Repr

/-- The reclaim unit (R149). -/
structure Reclaim where
  state : ReclaimState
  tail : Option SegAddr
  pos : Nat
  copied : Nat
  inHand : Option Hand
  copyWait : Bool
  origin : Origin
  attached : Option Attached
  latchedTrigger : Bool
  releasePending : Bool
  suspended : Bool
  deriving DecidableEq, Repr

/-- The reclaim unit after full reset (R149). -/
def Reclaim.reset : Reclaim :=
  { state := .idle, tail := none, pos := 1, copied := 0, inHand := none, copyWait := false, origin := .trigger,
    attached := none, latchedTrigger := false, releasePending := false, suspended := false }

/-! ## Mount engine -/

/-- The mount states (R164). -/
inductive MountState where
  | waiting | mounting | mounted | degraded | failed
  deriving DecidableEq, Repr

/-- The mount steps (R164). -/
inductive MountStep where
  | settle | identify | headers | records | ended
  deriving DecidableEq, Repr

/-- Which line of the segment being judged the header step reads (R167). -/
inductive HeaderSub where
  | line0
  | trailer (epoch : Long)
  | blank (line : Nat)
  deriving DecidableEq, Repr

/-- The header step's progress on one lane (R164). -/
structure LaneMount where
  identEnded : Bool
  nextSeg : Nat
  sub : HeaderSub
  deriving DecidableEq, Repr

/-- A record of an untrailered segment part-way read (R170). -/
structure WalkRec where
  header : RecHeader
  got : Nat
  run : PayloadRun
  deriving DecidableEq, Repr

/-- What the walk of a segment reads next (R169, R170). -/
inductive WalkPhase where
  | header
  | payload (r : WalkRec)
  | rest
  deriving DecidableEq, Repr

/-- The segment the records step walks (R164). -/
structure MountWalk where
  addr : SegAddr
  pos : Nat
  accepted : Nat
  phase : WalkPhase
  nextLine : Nat
  /-- the highest line of 1 to 126 read so far that is not blank -/
  high : Nat
  deriving DecidableEq, Repr

/-- The mount engine (R164). -/
structure Mount where
  state : MountState
  step : MountStep
  settle : Bool
  lanes : Quad LaneMount
  walk : Option MountWalk
  kept : List (SegAddr × Nat)
  maxSeq : Long
  lastAccepted : Nat
  damaged : Nat
  outcome : Nat
  deriving DecidableEq, Repr

/-- The mount engine after full reset (R164). -/
def Mount.reset : Mount :=
  { state := .waiting, step := .settle, settle := false, lanes := Quad.all ⟨false, 0, .line0⟩, walk := none, kept := [],
    maxSeq := 0, lastAccepted := 0, damaged := 0, outcome := 0 }

/-! ## Power control -/

/-- The power states (R177). -/
inductive PowerState where
  | active | hold | brace | park | stopped
  deriving DecidableEq, Repr

/-- A wake in progress; its 100 ms limit runs with it (R183). -/
structure Wake where
  settle : Bool
  deriving DecidableEq, Repr

/-- Power control (R177), with the reference clock and RESET_N (R184, R186). -/
structure Power where
  state : PowerState
  parkPending : Bool
  wake : Option Wake
  clearPending : Bool
  returnCounting : Bool
  /-- quiet has been noticed in this containment (R181; log 34) -/
  quietSeen : Bool
  clockRunning : Bool
  resetLow : Bool
  deriving DecidableEq, Repr

/-! ## The part and the state -/

/-- Everything the spec gives the part. -/
structure Part where
  pins : Inputs
  seen : Inputs
  bus : Bus
  zeroing : Bool
  mem : Mem
  orders : Orders
  format : Option FormatJob
  record : Option RecordOrder
  scan : Option ScanOrder
  head : Head
  dir : List DirEntry
  segs : Quad (List SegEntry)
  lastHeadLane : Lane
  lanes : Quad LaneRec
  reclaim : Reclaim
  mount : Mount
  power : Power
  /-- the number of the next free value (model's own; log 10) -/
  freeIndex : Nat
  deriving DecidableEq, Repr

/-- The state: the part and the queue of commands that wait, first in, first out. -/
structure State where
  part : Part
  pending : List Instr
  deriving DecidableEq, Repr

/-! ## Reset -/

/-- The bus port after full reset with these straps latched (R92). -/
def Bus.reset (st : Straps) : Bus :=
  { busSel := st.busSel, byteOrd := st.byteOrd, sid := st.sid, cfgSel := st.cfgSel, pointer := 0, winStart := 0,
    winEnd := 0x7FFF, readLatch := 0, writeHold := 0, readCapture := 0, holdLevel := false, parkLevel := false, sticky := 0,
    mask := 0, serial := .idle, dataOut := none }

/-- The three configuration words a source puts in force at the release of RESET_N: low-water, high-water, post mark (R101). -/
def presetWords (cfgSel : BitVec 2) : Nat × Nat × Nat :=
  if cfgSel = 0 then (4, 8, 12) else if cfgSel = 1 then (8, 16, 12) else if cfgSel = 2 then (2, 4, 8) else (0, 0, 0)

/-- The order block after full reset (R114, R101). -/
def Orders.reset (cfgSel : BitVec 2) : Orders :=
  { slots := Vector.replicate 32 ⟨false, .idle⟩, postQueue := [], doneList := [], lastPost := .none,
    intake := if cfgSel = 3 then .low else .ended, lowMark := (presetWords cfgSel).1, highMark := (presetWords cfgSel).2.1,
    postMark := (presetWords cfgSel).2.2 }

/-- The head writer after full reset (R123). -/
def Head.reset : Head :=
  { seqCounter := 0, epochCounter := 0, recordsInHead := 0, append := none, orderReq := none, copyReq := none,
    lastGranted := .reclaimUnit }

/-- Power control after full reset (R177). The spec gives the return count and the notice of quiet no value there: the count does
not run (log 4) and quiet is not noticed (log 34). -/
def Power.reset : Power :=
  { state := .active, parkPending := false, wake := none, clearPending := false, returnCounting := false, quietSeen := false,
    clockRunning := true, resetLow := false }

/-- The part right after the release of RESET_N with these straps, its inputs deasserted and the clock running: the zeroing
of exchange memory has begun (R186, R86). -/
def Part.reset (st : Straps) : Part :=
  { pins := ⟨false, false, false⟩, seen := ⟨false, false, false⟩, bus := Bus.reset st, zeroing := true, mem := [],
    orders := Orders.reset st.cfgSel, format := none, record := none, scan := none, head := Head.reset, dir := [],
    segs := Quad.all [], lastHeadLane := 3, lanes := Quad.all LaneRec.reset, reclaim := Reclaim.reset, mount := Mount.reset,
    power := Power.reset, freeIndex := 0 }

/-- The straps of `State.reset`: 16-bit bus, BYTEORD 0, SID 0, preset A. DESIGN CHOICE, unsafe (log 5). -/
def resetStraps : Straps := ⟨0, false, false, 0⟩

/-- The machine right after reset (R186), its queue empty. -/
def State.reset : State := { part := Part.reset resetStraps, pending := [] }

end Sys2Proof.Machine
end

