-- ==== Sys2Proof/Machine/Ops.lean ====
section
/-! DEFINITION. The named operations everything else is built from: byte order, exchange memory, per-lane data, notices,
segment table entries, lane requests, and running a change of the part as a command. -/

namespace Sys2Proof.Machine

/-! ## Byte order (00_scope 5.2) -/

/-- The number whose little-endian bytes these are. -/
def leNat : List Byte → Nat
  | [] => 0
  | b :: rest => b.toNat + 256 * leNat rest

/-- The `n` little-endian bytes of a number. -/
def leBytes : Nat → Nat → List Byte
  | 0, _ => []
  | n + 1, v => BitVec.ofNat 8 v :: leBytes n (v / 256)

/-- The little-endian field of `n` bytes at an offset. -/
def leField (bytes : List Byte) (offset n : Nat) : Nat := leNat ((bytes.drop offset).take n)

/-- The byte at an offset. -/
def byteAt (bytes : List Byte) (offset : Nat) : Byte := bytes.getD offset 0

/-- The low half of a register value. -/
def lowByte (w : Word) : Byte := w.setWidth 8

/-- The high half of a register value. -/
def highByte (w : Word) : Byte := (w >>> 8).setWidth 8

/-- The register value of a high and a low half. -/
def wordOf (high low : Byte) : Word := high ++ low

/-! ## Per-lane data -/

/-- The value of a lane. -/
def Quad.get {α : Type} (q : Quad α) : Lane → α
  | 0 => q.l0
  | 1 => q.l1
  | 2 => q.l2
  | 3 => q.l3

/-- Replace the value of a lane. -/
def Quad.set {α : Type} (q : Quad α) (l : Lane) (x : α) : Quad α :=
  match l with
  | 0 => { q with l0 := x }
  | 1 => { q with l1 := x }
  | 2 => { q with l2 := x }
  | 3 => { q with l3 := x }

/-- The four values, lane 0 first. -/
def Quad.toList {α : Type} (q : Quad α) : List α := [q.l0, q.l1, q.l2, q.l3]

/-- Change every lane's value. -/
def Quad.map {α β : Type} (f : α → β) (q : Quad α) : Quad β := ⟨f q.l0, f q.l1, f q.l2, f q.l3⟩

/-- The four lanes in order. -/
def allLanes : List Lane := [0, 1, 2, 3]

/-! ## Exchange memory (R84) -/

/-- The size of exchange memory. -/
def memSize : Nat := 32768

/-- The byte at an address; an address nothing is listed for reads 00hex, as the zeroing left it (R86). -/
def Mem.read : Mem → Nat → Byte
  | [], _ => 0
  | (k, v) :: rest, a => if k = a then v else Mem.read rest a

/-- Store a byte, keeping the canonical form. -/
def Mem.write : Mem → Nat → Byte → Mem
  | [], a, b => if b = 0 then [] else [(a, b)]
  | (k, v) :: rest, a, b =>
    if a < k then (if b = 0 then (k, v) :: rest else (a, b) :: (k, v) :: rest)
    else if a = k then (if b = 0 then rest else (a, b) :: rest)
    else (k, v) :: Mem.write rest a b

/-- The canonical form from a lowest address on: addresses strictly rising, inside the memory, no 00hex listed. -/
def Mem.wfFrom : Nat → Mem → Bool
  | _, [] => true
  | lo, (k, v) :: rest => decide (lo ≤ k) && decide (k < memSize) && v != 0 && Mem.wfFrom (k + 1) rest

/-- The canonical form. -/
def Mem.wf (m : Mem) : Bool := Mem.wfFrom 0 m

/-- Every address is formed on the fifteen address lines (log 26). -/
def memAddr (a : Nat) : Nat := a % memSize

/-- The `n` bytes from an address on (one access, R84). -/
def Mem.readBytes (m : Mem) (a : Nat) : Nat → List Byte
  | 0 => []
  | n + 1 => Mem.read m (memAddr a) :: Mem.readBytes m (a + 1) n

/-- Store bytes from an address on (one access, R84). -/
def Mem.writeBytes (m : Mem) (a : Nat) : List Byte → Mem
  | [] => m
  | b :: rest => Mem.writeBytes (Mem.write m (memAddr a) b) (a + 1) rest

/-- Store bytes in exchange memory as one access (R84). -/
def Part.store (a : Nat) (bytes : List Byte) (p : Part) : Part := { p with mem := Mem.writeBytes p.mem a bytes }

/-! ## Notices (R89) -/

/-- The NOTICE bit of a sticky flag (05, section 5.7). -/
def Sticky.bit : Sticky → Byte
  | .postReject => 0x02
  | .laneOffline => 0x04
  | .saturated => 0x08
  | .reclaimHalted => 0x10
  | .mountEnded => 0x20
  | .braced => 0x40
  | .configAdjusted => 0x80

/-- Raise a sticky flag; one already set stays set (R89). -/
def Part.raise (n : Sticky) (p : Part) : Part := { p with bus.sticky := p.bus.sticky ||| n.bit }

/-! ## Power and inputs -/

/-- The power state is ACTIVE. -/
def Part.active (p : Part) : Bool := p.power.state == .active

/-- The part takes events: RESET_N is high, the clock runs and the state is not STOPPED (R184, R186). -/
def Part.live (p : Part) : Bool := !p.power.resetLow && p.power.clockRunning && p.power.state != .stopped

/-- The mount state is MOUNTED or DEGRADED. -/
def Part.mounted (p : Part) : Bool := p.mount.state == .mounted || p.mount.state == .degraded

/-! ## Lane records (R57) -/

/-- A lane's record. -/
def Part.lane (p : Part) (l : Lane) : LaneRec := p.lanes.get l

/-- Replace a lane's record. -/
def Part.setLane (l : Lane) (r : LaneRec) (p : Part) : Part := { p with lanes := p.lanes.set l r }

/-- The lane is PRESENT (and so not OFFLINE, R57). -/
def Part.present (p : Part) (l : Lane) : Bool := (p.lane l).state == .present

/-- A requester's waiting request. -/
def Waiting.get (w : Waiting) : Requester → Option Request
  | .mount => w.mount
  | .record => w.record
  | .scan => w.scan
  | .reclaim => w.reclaim
  | .head => w.head
  | .erase => w.erase

/-- Place, replace or withdraw a requester's waiting request. -/
def Waiting.set (w : Waiting) (rq : Requester) (r : Option Request) : Waiting :=
  match rq with
  | .mount => { w with mount := r }
  | .record => { w with record := r }
  | .scan => { w with scan := r }
  | .reclaim => { w with reclaim := r }
  | .head => { w with head := r }
  | .erase => { w with erase := r }

/-- The requesters that discard a result whose work has ended (R73). -/
def Requester.mayDiscard : Requester → Bool
  | .record | .scan | .reclaim => true
  | .mount | .head | .erase => false

/-- The operation in flight is a requester's whose result it will discard (R73). -/
def LaneRec.discards (rq : Requester) (r : LaneRec) : Bool :=
  rq.mayDiscard && r.inFlight.any fun f => f.requester == rq && f.discard

/-- A requester gives the lane its next request: it waits at once, or, while a result of the requester's is still to come, when
that result has reached it (R65). -/
def LaneRec.request (rq : Requester) (q : Request) (r : LaneRec) : LaneRec :=
  if r.discards rq then { r with heldBack := some q } else { r with waiting := r.waiting.set rq (some q) }

/-- Place a request on a lane (R65). -/
def Part.place (l : Lane) (rq : Requester) (r : Request) (p : Part) : Part := p.setLane l ((p.lane l).request rq r)

/-- Withdraw a requester's waiting request from a lane (R65). -/
def Part.withdraw (l : Lane) (rq : Requester) (p : Part) : Part :=
  p.setLane l { p.lane l with waiting := (p.lane l).waiting.set rq none }

/-- A requester drops its work on a lane: its waiting request is withdrawn and the result of its operation in flight will be
discarded (R65, R73). -/
def LaneRec.dropWork (rq : Requester) (r : LaneRec) : LaneRec :=
  { r with
    waiting := r.waiting.set rq none
    heldBack := if r.discards rq then none else r.heldBack
    inFlight := r.inFlight.map fun f => if f.requester = rq then { f with discard := true } else f }

/-- A requester drops its work on every lane. -/
def Part.dropWork (rq : Requester) (p : Part) : Part := { p with lanes := p.lanes.map (LaneRec.dropWork rq) }

/-- The requester of the operation in flight on a lane. -/
def LaneRec.flier (r : LaneRec) : Option Requester := r.inFlight.map (·.requester)

/-! ## Segment table entries (R35) -/

/-- A segment's entry; where there is none it answers one that is never used. -/
def Part.seg (p : Part) (a : SegAddr) : SegEntry := (p.segs.get a.lane).getD a.seg (SegEntry.cleared .bad)

/-- Change a segment's entry. -/
def Part.modSeg (a : SegAddr) (f : SegEntry → SegEntry) (p : Part) : Part :=
  { p with segs := p.segs.set a.lane ((p.segs.get a.lane).modify a.seg f) }

/-- Put a segment in a state, its other fields unchanged. -/
def SegEntry.to (st : SegState) (e : SegEntry) : SegEntry := { e with state := st }

/-- Take one on a segment's readers count (R53). -/
def Part.takeReader (a : SegAddr) (p : Part) : Part := p.modSeg a fun e => { e with readers := e.readers + 1 }

/-- Release one of a segment's readers count (R53). -/
def Part.releaseReader (a : SegAddr) (p : Part) : Part := p.modSeg a fun e => { e with readers := e.readers - 1 }

/-! ## Running a change of the part as a command -/

/-- A command's effect: a change of the part; the queue is the step's business. -/
def run (f : Part → Part) (s : State) : Host.Outcome State Fault Refusal := .next { s with part := f s.part }

/-- Apply a change while the part takes events (R184, R186; log 1). -/
def Part.whenLive (f : Part → Part) (p : Part) : Part := if p.live then f p else p

end Sys2Proof.Machine
end

