-- ==== Sys2Proof/WellFormed.lean ====
section
/-! DEFINITION. Which commands are well formed. The operand types admit only what the spec admits, but for the length of a
line: a READ LINE response frame is 256 bytes (R59). -/

namespace Sys2Proof

/-- A line has 256 bytes (R1, R59). -/
def lineLength : Nat := 256

/-- The check of a command's operands. -/
def Instr.wf : Instr → Bool
  | .readLineEnd _ bytes => bytes.length == lineLength
  | .resetAssert | .resetRelease _ | .zeroingEnd | .registerWrite _ _ | .lowByteWrite _ _ | .dataRead | .dataWrite _
  | .post _ | .take | .hold _ | .park _ | .clear _ | .cut _ | .noticeWrite _ | .clearTakesEffect
  | .pwarnAssert | .pwarnDeassert | .winhAssert | .winhDeassert | .storeGoodRise | .storeGoodFall | .storeGoodSettled
  | .laneGrant _ | .identifyEnd _ _ _ | .programLineEnd _ _ | .eraseSegmentEnd _ _ | .timeLimitExpiry _
  | .put | .get | .drop | .scan | .reclaim | .format | .survey | .badKind
  | .orderAppendGrant | .copyGrant | .formatTakeTable | .quietReached | .wakeSettled | .wakeLimit
  | .clockStop | .clockReturn | .returnCountEnd | .entryBoundary | .lowByteRead _
  | .transactionStart | .startByte _ | .transactionEnd => true

end Sys2Proof
end

