-- ==== Sys2Proof/Machine/Formats.lean ====
section
/-! DEFINITION. The journal format: the two checks (R4, R5), the layouts the part writes to the store (R6, R7, R10, R11), and
the judgments it makes on what it reads (R6, R9, R10). -/

namespace Sys2Proof.Machine

/-! ## Checks -/

/-- One bit of the header check: shift left, applying 1021hex when the top bit leaves (R4). -/
def crc16Bit (c : Word) : Word := if c.msb then (c <<< 1) ^^^ 0x1021 else c <<< 1

/-- One byte of the header check, most significant bit first (R4). -/
def crc16Byte (c : Word) (b : Byte) : Word := Nat.repeat crc16Bit 8 (c ^^^ (b ++ (0 : Byte)))

/-- The header check (R4). -/
def crc16 (bytes : List Byte) : Word := bytes.foldl crc16Byte 0xFFFF

/-- One bit of the payload check: shift right, applying EDB88320hex when the bottom bit leaves (R5). -/
def crc32Bit (c : Long) : Long := if c.getLsbD 0 then (c >>> 1) ^^^ 0xEDB88320 else c >>> 1

/-- One byte of the payload check, least significant bit first (R5). -/
def crc32Byte (c : Long) (b : Byte) : Long := Nat.repeat crc32Bit 8 (c ^^^ b.setWidth 32)

/-- The payload check register at the start (R5). -/
def crc32Start : Long := 0xFFFFFFFF

/-- Run the payload check register on over bytes (R5). -/
def crc32Feed (c : Long) (bytes : List Byte) : Long := bytes.foldl crc32Byte c

/-- The final value of the payload check: the register inverted (R5). -/
def crc32Final (c : Long) : Long := ~~~c

/-- The payload check of bytes (R5). -/
def crc32 (bytes : List Byte) : Long := crc32Final (crc32Feed crc32Start bytes)

/-! ## Lines -/

/-- Fill a line up to its 256 bytes with FFhex (R2). -/
def fillLine (bytes : List Byte) : List Byte := bytes ++ List.replicate (lineLength - bytes.length) 0xFF

/-- A blank line: every byte FFhex (R2). -/
def blankLine (bytes : List Byte) : Bool := bytes.all (· == 0xFF)

/-- The record lines of a segment are 1 to 126; line 127 is the trailer (R3). -/
def lastRecordLine : Nat := 126

/-- The trailer's line (R3). -/
def trailerLine : Nat := 127

/-- A key, sequence or epoch in its valid range, 1 to FFFFFFFEhex (R6, R9). -/
def validLong (v : Long) : Bool := v != 0 && v != 0xFFFFFFFF

/-! ## Segment header (R6) -/

/-- The format mark. -/
def formatMark : Nat := 0x5A3C96E1

/-- Line 0 of a segment with this epoch (R6). -/
def segmentHeader (epoch : Long) (a : SegAddr) : List Byte :=
  let covered := leBytes 4 formatMark ++ leBytes 4 epoch.toNat ++ leBytes 2 a.seg ++ leBytes 1 a.lane.val
  fillLine (covered ++ leBytes 2 (crc16 covered).toNat)

/-- The judgment of line 0 (R6). -/
inductive HeaderJudgment where
  | blank
  | valid (epoch : Long)
  | invalid
  deriving DecidableEq, Repr

/-- The epoch field of line 0. -/
def headerEpoch (bytes : List Byte) : Long := BitVec.ofNat 32 (leField bytes 4 4)

/-- Judge line 0 as read from a segment (R6). -/
def judgeHeader (a : SegAddr) (bytes : List Byte) : HeaderJudgment :=
  if blankLine bytes then .blank
  else if leField bytes 0 4 == formatMark && leField bytes 11 2 == (crc16 (bytes.take 11)).toNat
      && validLong (headerEpoch bytes) && leField bytes 8 2 == a.seg && leField bytes 10 1 == a.lane.val then
    .valid (headerEpoch bytes)
  else .invalid

/-! ## Trailer (R10) -/

/-- The trailer mark. -/
def trailerMark : Nat := 0xE1963C5A

/-- Line 127 of a segment being closed (R10). -/
def trailer (epoch : Long) (goodEnd records : Nat) : List Byte :=
  let covered := leBytes 4 trailerMark ++ leBytes 4 epoch.toNat ++ leBytes 1 goodEnd ++ leBytes 2 records
  fillLine (covered ++ leBytes 2 (crc16 covered).toNat)

/-- Judge line 127 against the segment header's epoch: the good end and record count of a valid trailer (R10). -/
def judgeTrailer (epoch : Long) (bytes : List Byte) : Option (Nat × Nat) :=
  let goodEnd := leField bytes 8 1
  let records := leField bytes 9 2
  if leField bytes 0 4 == trailerMark && leField bytes 11 2 == (crc16 (bytes.take 11)).toNat
      && leField bytes 4 4 == epoch.toNat && decide (1 ≤ goodEnd) && decide (goodEnd ≤ 127)
      && decide (records ≤ lastRecordLine) && decide (records ≤ goodEnd - 1) then
    some (goodEnd, records)
  else none

/-! ## Records (R7 to R9, R11) -/

/-- The bytes of a record before its payload (R7). -/
def recordHeaderSize : Nat := 16

/-- The longest payload (R7). -/
def maxPayload : Nat := 4076

/-- The line count of a record: ceiling((16 + length + 4) / 256) (R8). -/
def lineCount (length : Nat) : Nat := (recordHeaderSize + length + 4 + (lineLength - 1)) / lineLength

/-- The low 16 bits of an epoch (R7). -/
def epochTag (epoch : Long) : Word := epoch.setWidth 16

/-- The 16 header bytes of a record (R7). -/
def recordHeader (tombstone copied : Bool) (length : Nat) (key sequence epoch : Long) : List Byte :=
  let covered := [if tombstone then 2 else 1, if copied then 1 else 0] ++ leBytes 2 length ++ leBytes 4 key.toNat
    ++ leBytes 4 sequence.toNat ++ leBytes 2 (epochTag epoch).toNat
  covered ++ leBytes 2 (crc16 covered).toNat

/-- The header fields of a record's first line. -/
def readHeader (bytes : List Byte) : RecHeader :=
  { kind := byteAt bytes 0, flags := byteAt bytes 1, length := leField bytes 2 2, key := BitVec.ofNat 32 (leField bytes 4 4),
    sequence := BitVec.ofNat 32 (leField bytes 8 4), tag := BitVec.ofNat 16 (leField bytes 12 2) }

/-- The header check of a record's first line passes (R4). -/
def headerCheckOk (bytes : List Byte) : Bool := leField bytes 14 2 == (crc16 (bytes.take 14)).toNat

/-- Flag bits 1 to 7 are 0 (R9). -/
def flagsOk (h : RecHeader) : Bool := h.flags &&& 0xFE == 0

/-- A record read at line `n` of a segment with this epoch is header-valid (R9). -/
def headerValid (epoch : Long) (n : Nat) (bytes : List Byte) : Bool :=
  let h := readHeader bytes
  headerCheckOk bytes && (h.kind == 1 || h.kind == 2) && flagsOk h
    && decide (h.length ≤ maxPayload) && (h.kind != 2 || h.length == 0)
    && validLong h.key && validLong h.sequence && h.tag == epochTag epoch
    && decide (n + lineCount h.length - 1 ≤ lastRecordLine)

/-- Where in the payload line `j` of a record begins: byte i of a record lies in line i div 256 (R7). -/
def payloadStart (j : Nat) : Nat := lineLength * j - recordHeaderSize

/-- How many payload bytes line `j` of a record with this payload length holds (R7). -/
def payloadCount (length j : Nat) : Nat :=
  min (length - payloadStart j) (if j = 0 then lineLength - recordHeaderSize else lineLength)

/-- The payload bytes in line `j` of a record (R7). -/
def payloadOf (length j : Nat) (bytes : List Byte) : List Byte :=
  (bytes.drop (if j = 0 then recordHeaderSize else 0)).take (payloadCount length j)

/-- The stored payload check bytes in line `j` of a record: they follow the payload and may cross a line boundary (R5, R7). -/
def checkBytesOf (length j : Nat) (bytes : List Byte) : List Byte :=
  let before := recordHeaderSize + length - lineLength * j
  (bytes.drop before).take (recordHeaderSize + length + 4 - (lineLength * j + before))

/-- The payload check at the start of a record. -/
def PayloadRun.start : PayloadRun := ⟨crc32Start, []⟩

/-- Run the payload check on over line `j` of a record (R5). -/
def PayloadRun.feed (length j : Nat) (bytes : List Byte) (r : PayloadRun) : PayloadRun :=
  { crc := crc32Feed r.crc (payloadOf length j bytes), stored := r.stored ++ checkBytesOf length j bytes }

/-- After the last line: the computed check equals the four stored bytes (R5). -/
def PayloadRun.ok (r : PayloadRun) : Bool := leBytes 4 (crc32Final r.crc).toNat == r.stored

/-- Line `j` of an order append's record: its header in line 0, its payload bytes, the check bytes after the payload, FFhex
fill (R7, R131). `crc` is the payload check register with this line's payload bytes taken. -/
def orderLine (header payload : List Byte) (length j : Nat) (crc : Long) : List Byte :=
  let body := (if j = 0 then header else []) ++ payload
  let check := (leBytes 4 (crc32Final crc).toNat).drop (lineLength * j - (recordHeaderSize + length))
  fillLine (body ++ check.take (lineLength - body.length))

/-- Line `j` of a copy: a new header, then the original's bytes from offset 16 to the end of its payload check unchanged, then
FFhex (R11). -/
def copyLine (c : CopyReq) (epoch : Long) (j : Nat) : List Byte :=
  let record := recordHeader false true c.length c.key c.sequence epoch ++ (c.bytes.drop recordHeaderSize).take (c.length + 4)
  fillLine ((record.drop (lineLength * j)).take lineLength)

end Sys2Proof.Machine
end

