-- ==== Sys2Proof/Machine/Directory.lean ====
section
/-! DEFINITION. The key directory: its three lookups and its changes (R16 to R34). -/

namespace Sys2Proof.Machine

/-- The directory's capacity (R16). -/
def dirCapacity : Nat := 4096

/-- The exact lookup (R20). -/
def dirLookup (d : List DirEntry) (key : Long) : Option DirEntry := d.find? (·.key == key)

/-- The ordered lookup: the entry of lowest key from the cursor up to the bound (R21). -/
def dirNext (d : List DirEntry) (cursor bound : Long) : Option DirEntry :=
  d.find? fun e => decide (cursor ≤ e.key) && decide (e.key ≤ bound)

/-- The claim lookup: the entry for the key when its location is the address (R22). -/
def dirClaim (d : List DirEntry) (key : Long) (loc : RecLoc) : Option DirEntry :=
  (dirLookup d key).filter (·.loc == loc)

/-- Insert an entry in key order, or replace the entry of its key (R16). -/
def dirPut (e : DirEntry) : List DirEntry → List DirEntry
  | [] => [e]
  | x :: rest => if e.key < x.key then e :: x :: rest else if e.key = x.key then e :: rest else x :: dirPut e rest

/-- Remove the entry of a key (R16). -/
def dirRemove (key : Long) (d : List DirEntry) : List DirEntry := d.filter (·.key != key)

/-- The number of LIVE entries (R34). -/
def liveCount (d : List DirEntry) : Nat := d.countP fun e => !e.gone

/-- The number of GONE entries (R34). -/
def goneCount (d : List DirEntry) : Nat := d.countP (·.gone)

/-- The lines of a segment that directory entries name (R30, R32). -/
def claimedIn (d : List DirEntry) (a : SegAddr) : Nat := ((d.filter (·.loc.addr == a)).map (·.lines)).sum

/-- The entry a completed order append gives its key (R23, R24). -/
def orderEntry (r : OrderReq) (sequence : Long) (loc : RecLoc) : DirEntry :=
  { key := r.key, sequence := sequence, gone := r.tombstone, loc := loc, length := r.length, lines := r.lines }

/-- Take lines from a segment's claimed lines (R30). -/
def Part.loseClaim (a : SegAddr) (n : Nat) (p : Part) : Part := p.modSeg a fun e => { e with claimed := e.claimed - n }

/-- Add lines to a segment's claimed lines (R30). -/
def Part.gainClaim (a : SegAddr) (n : Nat) (p : Part) : Part := p.modSeg a fun e => { e with claimed := e.claimed + n }

/-- The directory change of a completed order append with its claimed-line changes (R23, R24, R30). -/
def Part.dirAppend (e : DirEntry) (p : Part) : Part :=
  match dirLookup p.dir e.key with
  | none => { p with dir := dirPut e p.dir }.gainClaim e.loc.addr e.lines
  | some old => ({ p with dir := dirPut e p.dir }.loseClaim old.loc.addr old.lines).gainClaim e.loc.addr e.lines

/-- The re-point of a completed copy with its claimed-line changes (R26, R30). -/
def Part.dirRepoint (key : Long) (loc : RecLoc) (p : Part) : Part :=
  match dirLookup p.dir key with
  | none => p
  | some old =>
    ({ p with dir := dirPut { old with loc := loc } p.dir }.loseClaim old.loc.addr old.lines).gainClaim loc.addr old.lines

/-- The tombstone drop of a key whose GONE entry names a record of the tail (R27, R30). -/
def Part.dirDrop (key : Long) (tail : SegAddr) (p : Part) : Part := { p with dir := dirRemove key p.dir }.loseClaim tail 1

/-- The entry a record accepted by mount gives its key (R31). -/
def mountEntry (h : RecHeader) (loc : RecLoc) (lines : Nat) : DirEntry :=
  { key := h.key, sequence := h.sequence, gone := h.kind == 2, loc := loc, length := h.length, lines := lines }

/-- Apply a record accepted by mount: none when it would insert a 4,097th entry (R31, R32). -/
def dirMount (e : DirEntry) (d : List DirEntry) : Option (List DirEntry) :=
  match dirLookup d e.key with
  | none => if dirCapacity ≤ d.length then none else some (dirPut e d)
  | some old => if old.sequence ≤ e.sequence then some (dirPut e d) else some d

end Sys2Proof.Machine
end

