-- ==== Sys2Proof/Machine/Segments.lean ====
section
/-! DEFINITION. The segment table's derived figures and its erase requests: chain, tail, head, free count, saturation,
rotation, eligibility (R44, R48 to R52). -/

namespace Sys2Proof.Machine

/-- The entries of a lane with their addresses, from a segment index on. -/
def addrsFrom (l : Lane) : Nat → List SegEntry → List (SegAddr × SegEntry)
  | _, [] => []
  | n, e :: rest => (⟨l, n⟩, e) :: addrsFrom l (n + 1) rest

/-- Every entry of the segment table with its address (R35). -/
def Part.entries (p : Part) : List (SegAddr × SegEntry) :=
  addrsFrom 0 0 p.segs.l0 ++ addrsFrom 1 0 p.segs.l1 ++ addrsFrom 2 0 p.segs.l2 ++ addrsFrom 3 0 p.segs.l3

/-- Change every entry of the segment table. -/
def Part.mapSegs (f : SegAddr → SegEntry → SegEntry) (p : Part) : Part :=
  { p with segs :=
    ⟨(addrsFrom 0 0 p.segs.l0).map fun x => f x.1 x.2, (addrsFrom 1 0 p.segs.l1).map fun x => f x.1 x.2,
     (addrsFrom 2 0 p.segs.l2).map fun x => f x.1 x.2, (addrsFrom 3 0 p.segs.l3).map fun x => f x.1 x.2⟩ }

/-- The chain states (R48). -/
def SegState.inChain : SegState → Bool
  | .head | .closed | .reclaiming => true
  | .unswept | .free | .opening | .eraseWait | .erasing | .bad => false

/-- The chain (R48); its order is its epochs'. -/
def Part.chain (p : Part) : List (SegAddr × SegEntry) := p.entries.filter (·.2.state.inChain)

/-- The element of lowest epoch. -/
def lowestEpoch : List (SegAddr × SegEntry) → Option (SegAddr × SegEntry)
  | [] => none
  | x :: rest =>
    match lowestEpoch rest with
    | none => some x
    | some y => if y.2.epoch < x.2.epoch then some y else some x

/-- The element of highest epoch. -/
def highestEpoch : List (SegAddr × SegEntry) → Option (SegAddr × SegEntry)
  | [] => none
  | x :: rest =>
    match highestEpoch rest with
    | none => some x
    | some y => if x.2.epoch < y.2.epoch then some y else some x

/-- The HEAD segment, if there is one (R48). -/
def Part.headSeg (p : Part) : Option (SegAddr × SegEntry) := p.entries.find? (·.2.state == .head)

/-- The free count: FREE segments on lanes that are PRESENT and not OFFLINE (R50). -/
def Part.freeCount (p : Part) : Nat := p.entries.countP fun x => x.2.state == .free && p.present x.1.lane

/-- Saturation: every CLOSED segment has 126 claimed lines (R52). -/
def Part.saturation (p : Part) : Bool := p.entries.all fun x => x.2.state != .closed || x.2.claimed == 126

/-- A segment that an erase may still bring back: ERASE_WAIT, ERASING or UNSWEPT on a usable lane (R153). -/
def Part.eraseComing (p : Part) : Bool :=
  p.entries.any fun x =>
    (x.2.state == .eraseWait || x.2.state == .erasing || x.2.state == .unswept) && p.present x.1.lane

/-- The lanes in the order the rotation considers them (R49). -/
def Part.rotationOrder (p : Part) : List Lane :=
  [p.lastHeadLane + 1, p.lastHeadLane + 2, p.lastHeadLane + 3, p.lastHeadLane]

/-- The lowest FREE segment of a lane, if the lane can take the next head (R49). -/
def Part.freeOn (p : Part) (l : Lane) : Option SegAddr :=
  if p.present l then ((p.segs.get l).findIdx? (·.state == .free)).map fun i => ⟨l, i⟩ else none

/-- The segment the rotation chooses (R49). -/
def Part.rotation (p : Part) : Option SegAddr := p.rotationOrder.findSome? p.freeOn

/-! ## Erase requests (R44) -/

/-- An older ERASE_WAIT segment must begin its erase first (R44). -/
def Part.olderEraseWait (p : Part) (a : SegAddr) (epoch : Long) : Bool :=
  p.entries.any fun x =>
    x.1 != a && x.2.state == .eraseWait && x.2.epoch != 0 && decide (x.2.epoch < epoch) && p.present x.1.lane

/-- A segment is eligible for an erase request (R44, R38). -/
def Part.eligible (p : Part) (a : SegAddr) (e : SegEntry) : Bool :=
  (e.state == .eraseWait || (e.state == .unswept && p.mounted)) && e.readers == 0 && !p.seen.winh && p.active
    && p.present a.lane && !(e.state == .eraseWait && e.epoch != 0 && p.olderEraseWait a e.epoch)

/-- The lowest eligible segment of a lane (R44). -/
def Part.eraseChoice (p : Part) (l : Lane) : Option Nat :=
  ((addrsFrom l 0 (p.segs.get l)).find? fun x => p.eligible x.1 x.2).map (·.1.seg)

/-- The erase request on a lane stands only while its segment stays eligible (R44). -/
def Part.eraseStands (p : Part) (l : Lane) : Bool :=
  match (p.lane l).waiting.erase with
  | some ⟨.eraseSegment i, _⟩ => p.eligible ⟨l, i⟩ (p.seg ⟨l, i⟩)
  | _ => false

/-- Bring a lane's erase request up to date: withdraw it when its segment is no longer eligible, and place one when none
waits, none is in flight and a segment is eligible (R44). -/
def Part.refreshLane (l : Lane) (p : Part) : Part :=
  if p.eraseStands l then p
  else if (p.lane l).flier = some .erase then (if (p.lane l).waiting.erase = none then p else p.withdraw l .erase)
  else
    match p.eraseChoice l with
    | some i => p.place l .erase ⟨.eraseSegment i, false⟩
    | none => if (p.lane l).waiting.erase = none then p else p.withdraw l .erase

/-- Bring the erase requests of all lanes up to date (R44). -/
def Part.refreshErase (p : Part) : Part := (((p.refreshLane 0).refreshLane 1).refreshLane 2).refreshLane 3

/-- An event inside the part: it is taken while the part takes events, and the erase requests follow it. -/
def Part.act (f : Part → Part) (p : Part) : Part := p.whenLive fun q => (f q).refreshErase

end Sys2Proof.Machine
end

