-- ==== Sys2Proof/Machine/Orders.lean ====
section
/-! DEFINITION. The order block: slots, posting, configuration intake, the dispatch reads and checks, completion and TAKE
(R96 to R112), and the survey record (R95). -/

namespace Sys2Proof.Machine

/-! ## Slots (R93, R96, R97) -/

/-- The address of a slot (R85). -/
def slotBase (n : SlotNo) : Nat := 0x0100 + 64 * n.val

/-- The phase byte of a slot (R93). -/
def phaseByte : Phase → Byte
  | .idle => 0
  | .queued => 1
  | .running => 2
  | .done => 3

/-- The phase byte ABANDONED (R93). -/
def abandonedByte : Byte := 4

/-- Write a slot's phase byte, one access (R97). -/
def Part.writePhase (n : SlotNo) (b : Byte) (p : Part) : Part := p.store (slotBase n) [b]

/-- Set a slot's entry in the slot table (R96). -/
def Part.setSlot (n : SlotNo) (e : SlotEntry) (p : Part) : Part := { p with orders.slots := p.orders.slots.set n.val e n.isLt }

/-- A slot's entry. -/
def Part.slot (p : Part) (n : SlotNo) : SlotEntry := p.orders.slots.get n

/-! ## Outcomes (R110 to R112) -/

/-- The class codes (R110). -/
def Class.code : Class → Byte
  | .ok => 1
  | .partly => 2
  | .fault => 3
  | .refused => 4

/-- The reason codes (R111). -/
def Reason.code : Reason → Byte
  | .none => 0
  | .badKind => 1
  | .badKey => 2
  | .badLength => 3
  | .badBuffer => 4
  | .badRange => 5
  | .notMounted => 6
  | .notFound => 16
  | .mismatch => 17
  | .shortBuffer => 18
  | .headerCheck => 19
  | .dataCheck => 20
  | .staleTag => 21
  | .laneOffline => 22
  | .laneTimeout => 23
  | .programFault => 24
  | .journalFull => 25
  | .directoryFull => 26
  | .writeInhibited => 27
  | .sequenceSpent => 28
  | .saturated => 29
  | .reclaimHalted => 30
  | .areaFull => 32
  | .cut => 33

/-- The marks byte (R112). -/
def Result.marks (r : Result) : Byte := (if r.retried then 1 else 0) ||| (if r.damagedSeen then 2 else 0)

/-- OK with every result field 0. -/
def okResult : Result := { cls := .ok, reason := .none }

/-- FAULT with a reason. -/
def faultResult (why : Reason) : Result := { cls := .fault, reason := why }

/-- REFUSED with a reason, every result field 0 (R107). -/
def refusedResult (why : Reason) : Result := { cls := .refused, reason := why }

/-- Write an outcome into a slot: class, reason, marks, and every result field (R93). -/
def Part.writeResult (n : SlotNo) (r : Result) (p : Part) : Part :=
  (((p.store (slotBase n + 3) [r.cls.code, r.reason.code, r.marks]).store (slotBase n + 20)
    (leBytes 4 r.sequence.toNat ++ leBytes 2 r.length.toNat ++ leBytes 2 r.examined.toNat ++ leBytes 4 r.resume.toNat)).store
    (slotBase n + 35) [r.damaged])

/-- Complete an order: the outcome, then phase 3, the slot DONE in the slot table, its number at the tail of the done list
(R107, R108). -/
def Part.complete (n : SlotNo) (r : Result) (p : Part) : Part :=
  let q := (((p.writeResult n r).writePhase n (phaseByte .done)).setSlot n ⟨true, .done⟩)
  { q with orders.doneList := q.orders.doneList ++ [n] }

/-! ## Posting (R98 to R100) -/

/-- The post queue's capacity (R98). -/
def queueCapacity : Nat := 16

/-- Record the last post outcome (R99). -/
def Part.postOutcome (o : PostOutcome) (p : Part) : Part := { p with orders.lastPost := o }

/-- Refuse a post: its reason, and POST_REJECT (R99). -/
def Part.refusePost (o : PostOutcome) (p : Part) : Part := (p.postOutcome o).raise .postReject

/-- Accept a post (R98). -/
def Part.acceptPost (n : SlotNo) (p : Part) : Part :=
  let q := ((p.setSlot n ⟨true, .queued⟩).writePhase n (phaseByte .queued)).postOutcome .accepted
  { q with orders.postQueue := q.orders.postQueue ++ [n] }

/-- A post once intake has ended (R98, steps 2 to 5). -/
def Part.postSlot (v : Word) (p : Part) : Part :=
  if h : v.toNat < 32 then
    let n : SlotNo := ⟨v.toNat, h⟩
    if (p.slot n).held then p.refusePost .held
    else if queueCapacity ≤ p.orders.postQueue.length then p.refusePost .full
    else p.acceptPost n
  else p.refusePost .badSlot

/-- The queue-high flag (R100). -/
def Part.queueHigh (p : Part) : Bool := p.orders.intake == .ended && decide (p.orders.postMark ≤ p.orders.postQueue.length)

/-- A configuration word's value in force: as written in range, else its replacement (R102). -/
def wordInForce (v lo hi replacement : Nat) : Nat := if lo ≤ v ∧ v ≤ hi then v else replacement

/-- Raise CONFIG_ADJUSTED when a word was replaced (R102). -/
def Part.noteAdjusted (v inForce : Nat) (p : Part) : Part := if v = inForce then p else p.raise .configAdjusted

/-- Take a POST write as the next configuration word (R102). The comparison that the third word brings is the caller's. -/
def Part.takeWord (v : Word) (p : Part) : Part :=
  match p.orders.intake with
  | .low =>
    let w := wordInForce v.toNat 2 32 4
    ({ p with orders.lowMark := w, orders.intake := .high }.noteAdjusted v.toNat w).postOutcome .configTaken
  | .high =>
    let w := wordInForce v.toNat (p.orders.lowMark + 1) 64 (max 8 (p.orders.lowMark + 1))
    ({ p with orders.highMark := w, orders.intake := .post }.noteAdjusted v.toNat w).postOutcome .configTaken
  | .post =>
    let w := wordInForce v.toNat 1 16 12
    ({ p with orders.postMark := w, orders.intake := .ended }.noteAdjusted v.toNat w).postOutcome .configTaken
  | .ended => p

/-! ## TAKE (R109) -/

/-- What a TAKE read returns: the oldest done slot, or FFhex (R87, R109). -/
def Part.takeValue (p : Part) : Word :=
  match p.orders.doneList with
  | [] => 0x00FF
  | n :: _ => BitVec.ofNat 16 n.val

/-- A TAKE read's effect: the oldest done slot is removed and released (R109). -/
def Part.takeSlot (p : Part) : Part :=
  match p.orders.doneList with
  | [] => p
  | n :: rest => { p with orders.doneList := rest }.setSlot n ⟨false, .idle⟩

/-! ## Dispatch (R103 to R107) -/

/-- The order fields of a slot, read in one access of bytes 1 to 51 (R93, R104). -/
def Part.readFields (p : Part) (n : SlotNo) : OrderFields :=
  let b := Mem.readBytes p.mem (slotBase n) 52
  { kind := byteAt b 1, options := byteAt b 2, step := byteAt b 6, mode := byteAt b 7,
    key := BitVec.ofNat 32 (leField b 8 4), keyHi := BitVec.ofNat 32 (leField b 12 4),
    bufOffset := BitVec.ofNat 16 (leField b 16 2), bufLength := BitVec.ofNat 16 (leField b 18 2),
    cmpOffset := BitVec.ofNat 16 (leField b 32 2), patLength := byteAt b 34, pattern := (b.drop 36).take 16 }

/-- The dispatch conditions of R103 but for the free unit: the head of the queue and its order fields. -/
def Part.headOrder (p : Part) : Option (SlotNo × OrderFields) :=
  if p.active && p.orders.intake == .ended && (p.mounted || p.mount.state == .failed) && p.format.isNone then
    match p.orders.postQueue with
    | [] => none
    | n :: _ => some (n, p.readFields n)
  else none

/-- The order's number leaves the queue and its slot is RUNNING (R105). -/
def Part.startOrder (n : SlotNo) (p : Part) : Part :=
  ({ p with orders.postQueue := p.orders.postQueue.tail }.setSlot n ⟨true, .running⟩).writePhase n (phaseByte .running)

/-- The start of the buffer region (R85). -/
def bufferBase : Nat := 0x0900

/-- The buffer lies in the buffer region (R106). -/
def OrderFields.bufferOk (f : OrderFields) : Bool :=
  decide (bufferBase ≤ f.bufOffset.toNat) && decide (f.bufOffset.toNat + f.bufLength.toNat ≤ memSize)

/-- The kinds that need MOUNTED or DEGRADED: all but FORMAT and SURVEY (R105, check 6). -/
def OrderFields.needsMount (f : OrderFields) : Bool := f.kind != 6 && f.kind != 7

/-- The range check of a SCAN (R105, check 5). -/
def OrderFields.rangeOk (f : OrderFields) : Bool :=
  decide (f.key ≤ f.keyHi) && f.step != 0 && decide (1 ≤ f.patLength.toNat) && decide (f.patLength.toNat ≤ 16)
    && decide (1 ≤ f.mode.toNat) && decide (f.mode.toNat ≤ 5)

/-- The checks of R105 in their order: the reason of the first that fails. -/
def dispatchCheck (mounted : Bool) (f : OrderFields) : Option Reason :=
  let k := f.kind.toNat
  if k < 1 ∨ 7 < k then some .badKind
  else if (k = 1 ∨ k = 2 ∨ k = 3) ∧ validLong f.key = false then some .badKey
  else if k = 4 ∧ (validLong f.key && validLong f.keyHi) = false then some .badKey
  else if k = 1 ∧ maxPayload < f.bufLength.toNat then some .badLength
  else if (k = 1 ∨ k = 2 ∨ k = 4 ∨ k = 7) ∧ f.bufferOk = false then some .badBuffer
  else if k = 7 ∧ f.bufLength.toNat < 64 then some .badBuffer
  else if k = 4 ∧ f.rangeOk = false then some .badRange
  else if f.needsMount ∧ mounted = false then some .notMounted
  else none

/-- Dispatch the head order when its kind is one of `kinds` and its unit is free: refuse it, or hand it to its unit
(R103 to R107). -/
def Part.dispatch (kinds : Byte → Bool) (unitFree : Part → Bool) (take : SlotNo → OrderFields → Part → Part) (p : Part) :
    Part :=
  match p.headOrder with
  | none => p
  | some (n, f) =>
    if kinds f.kind && unitFree p then
      match dispatchCheck p.mounted f with
      | some why => (p.startOrder n).complete n (refusedResult why)
      | none => take n f (p.startOrder n)
    else p

/-! ## Unit ends -/

/-- The record unit completes its order and is free (R108). -/
def Part.finishRecord (r : Result) (p : Part) : Part :=
  match p.record with
  | none => p
  | some o => { p with record := none }.complete o.slot r

/-! ## The survey record (R95) -/

/-- A lane set as a byte, bit n for lane n (R74, R95). -/
def Part.laneSet (p : Part) (f : LaneState → Bool) : Byte :=
  (if f (p.lane 0).state then 1 else 0) ||| (if f (p.lane 1).state then 2 else 0)
    ||| (if f (p.lane 2).state then 4 else 0) ||| (if f (p.lane 3).state then 8 else 0)

/-- The present set: PRESENT or OFFLINE (R74). -/
def LaneState.inPresentSet : LaneState → Bool
  | .present | .offline => true
  | .unknown | .absent => false

/-- The count of segments in some states. -/
def Part.countSegs (p : Part) (f : SegState → Bool) : Nat := p.entries.countP fun x => f x.2.state

/-- The power state's code (R177). -/
def PowerState.code : PowerState → Nat
  | .active => 0
  | .hold => 1
  | .brace => 2
  | .park => 3
  | .stopped => 3

/-- The mount state's code (05, section 5.7). -/
def MountState.code : MountState → Nat
  | .waiting => 0
  | .mounting => 1
  | .mounted => 2
  | .degraded => 3
  | .failed => 4

/-- The reclaim state's code (05, section 5.7). -/
def ReclaimState.code : ReclaimState → Nat
  | .idle => 0
  | .copying => 1
  | .stalled => 2
  | .halted => 3

/-- The 64 bytes of the survey record, its figures as their owners hold them (R95, R56, R122). -/
def Part.surveyRecord (p : Part) : List Byte :=
  [BitVec.ofNat 8 p.mount.outcome, p.laneSet LaneState.inPresentSet, p.laneSet (· == .absent), p.laneSet (· == .offline)]
    ++ leBytes 2 (p.lane 0).count ++ leBytes 2 (p.lane 1).count ++ leBytes 2 (p.lane 2).count ++ leBytes 2 (p.lane 3).count
    ++ leBytes 2 (p.countSegs SegState.inChain) ++ leBytes 2 p.freeCount
    ++ leBytes 2 (p.countSegs fun s => s == .eraseWait || s == .erasing) ++ leBytes 2 (p.countSegs (· == .bad))
    ++ leBytes 2 p.mount.damaged ++ leBytes 2 (liveCount p.dir) ++ leBytes 2 (goneCount p.dir) ++ leBytes 2 0
    ++ leBytes 4 p.head.seqCounter.toNat ++ leBytes 4 p.head.epochCounter.toNat
    ++ leBytes 1 p.reclaim.state.code ++ leBytes 1 (if p.saturation then 1 else 0) ++ leBytes 1 p.power.state.code
    ++ leBytes 1 0 ++ leBytes 1 p.orders.lowMark ++ leBytes 1 p.orders.highMark ++ leBytes 1 p.orders.postMark
    ++ leBytes 1 p.bus.cfgSel.toNat ++ List.replicate 20 0

end Sys2Proof.Machine
end

