-- ==== Sys2Proof/Machine/Flags.lean ====
section
/-! DEFINITION. The flags and outputs computed from the state: the notice flags and ATTN (R89 to R91), LANE_PWR (R72), and
the register values a host reads (R77, R87, R88). -/

namespace Sys2Proof.Machine

/-- The notice flags, DONE following the done list (R89). -/
def Part.noticeFlags (p : Part) : Byte := p.bus.sticky ||| (if p.orders.doneList.isEmpty then 0 else 1)

/-- The ATTN output (R91). -/
def Part.attn (p : Part) : Bool := p.noticeFlags &&& p.bus.mask != 0

/-- The LANE_PWR output (R72). -/
def Part.lanePwr (p : Part) : Bool :=
  p.power.resetLow ||
    match p.power.state with
    | .active | .hold | .brace => true
    | .park => p.power.wake.isSome
    | .stopped => false

/-- The code of the last post outcome (05, section 5.7). -/
def PostOutcome.code : PostOutcome → Nat
  | .none => 0
  | .accepted => 1
  | .badSlot => 2
  | .held => 3
  | .full => 4
  | .configTaken => 5

/-- One bit of a register at a place. -/
def bitAt (b : Bool) (place : Nat) : Nat := if b then 2 ^ place else 0

/-- The POST read value (R87, section 5.7). -/
def Part.postValue (p : Part) : Word := BitVec.ofNat 16 (p.orders.postQueue.length + 32 * p.orders.lastPost.code)

/-- The STATE read value (R88, section 5.7). -/
def Part.stateValue (p : Part) : Word :=
  BitVec.ofNat 16 (p.power.state.code + 4 * p.mount.state.code + bitAt (p.orders.intake != .ended) 5 + bitAt p.queueHigh 6
    + 128 * min 31 p.orders.doneList.length + bitAt p.record.isSome 12 + bitAt p.scan.isSome 13
    + 2 ^ 14 * p.reclaim.state.code)

/-- The NOTICE read value (R90). -/
def Part.noticeValue (p : Part) : Word := wordOf p.bus.mask p.noticeFlags

/-- What a read of a register returns (R77). -/
def Part.readRegister (p : Part) : Reg → Word
  | .pointer => p.bus.pointer.setWidth 16
  | .data => p.bus.readLatch
  | .winStart => p.bus.winStart.setWidth 16
  | .winEnd => p.bus.winEnd.setWidth 16
  | .post => p.postValue
  | .take => p.takeValue
  | .control => p.stateValue
  | .notice => p.noticeValue

end Sys2Proof.Machine
end

