-- ==== Sys2Proof/Machine/Operands.lean ====
section
/-! DEFINITION. The operand forms of the host's accesses: the three bus modes, byte placement, serial framing, and what an
access that is not served does (R76 to R80, R86, R92, R186). -/

namespace Sys2Proof.Machine

/-- The bus mode the latched BUSSEL selects (R76). -/
def Part.busMode (p : Part) : BusMode :=
  if p.bus.busSel = 1 then .byte8 else if p.bus.busSel = 2 then .serial else .word16

/-- The two halves of D[15:0] exchanged (R78). -/
def swapBytes (d : Word) : Word := wordOf (lowByte d) (highByte d)

/-- Between the register value and D[15:0] of the 16-bit mode, under BYTEORD (R78). -/
def Part.placed (p : Part) (d : Word) : Word := if p.bus.byteOrd then swapBytes d else d

/-- The bus port serves accesses (R86, R92, R184, R186). -/
def Part.served (p : Part) : Bool := p.live && !p.zeroing

/-- The serial transaction under way names this register in this direction (R80). -/
def Part.frames (p : Part) (r : Reg) (read : Bool) : Bool := p.bus.serial == .framed r read

/-- The value a served write access gives a register other than DATA: none where the access is not served. In the 8-bit mode
it is the high-byte write, completed by the write holding byte (R78 to R80). -/
def Part.writeValue (p : Part) (r : Reg) (d : Word) : Option Word :=
  if p.served then
    match p.busMode with
    | .word16 => some (p.placed d)
    | .byte8 => some (wordOf (lowByte d) p.bus.writeHold)
    | .serial => if p.frames r false then some d else none
  else none

/-- A write access to a register other than DATA: its write effect when it is served (R77, R79). -/
def Part.writeAccess (r : Reg) (d : Word) (effect : Word → Part → Part) (p : Part) : Part :=
  match p.writeValue r d with
  | some v => effect v p
  | none => p

/-- Leave a value on the data pins or SDO. -/
def Part.drive (out : Option Word) (p : Part) : Part := { p with bus.dataOut := out }

/-- The data lines that carry a read: D[15:0], D[7:0], or none where SDO is released. -/
def BusMode.lines : BusMode → Option Word
  | .word16 => some 0xFFFF
  | .byte8 => some 0x00FF
  | .serial => none

/-- What a read that is not served leaves on D[15:0]: 0 while RESET_N is low or before the zeroing has ended, all ones in STOPPED
(R86, R92, R186); a free value while the clock is stopped elsewhere (log 10). -/
def Part.unservedValue (p : Part) : Word :=
  if p.power.resetLow then 0
  else if p.power.state = .stopped then 0xFFFF
  else if p.zeroing then 0
  else Config.clockStoppedRead p.freeIndex

/-- What a read that is not served leaves on the pins of the bus mode; nothing in the serial mode, SDO being released (R86, R92,
R186). -/
def Part.unservedOut (p : Part) : Option Word := p.busMode.lines.map (p.unservedValue &&& ·)

/-- The value of a read that is not served is a free one (log 10). -/
def Part.readsFree (p : Part) : Bool :=
  p.busMode != .serial && !p.power.resetLow && p.power.state != .stopped && !p.zeroing

/-- A host read that the port does not serve: no read effect (R86, R92, R186). -/
def Part.unservedRead (p : Part) : Part :=
  let q := p.drive p.unservedOut
  if p.readsFree then { q with freeIndex := q.freeIndex + 1 } else q

/-- What a read access leaves on the pins of its mode, for every register, its byte address bit A0, served or not (R77 to R80, R86,
R92, R186): the register placed under BYTEORD; in the 8-bit mode its low half, or, with A0 1 and a register other than DATA, the
read capture byte; in the serial mode the value, where the transaction names the register. A read without a read effect changes
nothing and has no row (log 9). -/
def Part.pinRead (r : Reg) (a0 : Bool) (p : Part) : Option Word :=
  if p.served then
    match p.busMode with
    | .word16 => some (p.placed (p.readRegister r))
    | .byte8 =>
      if r = .data then some (p.readRegister r)
      else if a0 then some (p.bus.readCapture.setWidth 16)
      else some ((lowByte (p.readRegister r)).setWidth 16)
    | .serial => if p.frames r true then some (p.readRegister r) else none
  else p.unservedOut

/-- The bits of a value on SDO in the order they are shifted out: high byte first, each byte most significant bit first (R80). -/
def serialBits (v : Word) : List Bool := (List.range 16).map fun i => v.getLsbD (15 - i)

/-- A read access to DATA or TAKE: its read when it is served, with the placement of the value on the pins (R77 to R80, R86,
R92, R186). -/
def Part.readAccess (r : Reg) (read : (Word → Word) → Part → Part) (p : Part) : Part :=
  if p.served then
    match p.busMode with
    | .word16 => read p.placed p
    | .byte8 => read id p
    | .serial => if p.frames r true then read id p else p.drive none
  else p.unservedRead

/-! ## The pointer (R81) -/

/-- A word mode: 16-bit or serial (R76). -/
def Part.wordMode (p : Part) : Bool := p.busMode != .byte8

/-- The address a DATA access uses: in the word modes the pointer with bit 0 taken as 0 (R81). -/
def Part.dataAddr (p : Part) : Nat := if p.wordMode then (p.bus.pointer &&& 0x7FFE).toNat else p.bus.pointer.toNat

/-- The pointer after a DATA access (R81). -/
def Part.nextPointer (p : Part) : Addr :=
  if p.wordMode then
    if p.bus.pointer &&& 0x7FFE = p.bus.winEnd &&& 0x7FFE then (p.bus.winStart &&& 0x7FFE) ||| (p.bus.pointer &&& 1)
    else p.bus.pointer + 2
  else if p.bus.pointer = p.bus.winEnd then p.bus.winStart
  else p.bus.pointer + 1

/-- Advance the pointer (R81). -/
def Part.advance (p : Part) : Part := { p with bus.pointer := p.nextPointer }

/-- Reload the read latch at the pointer, one access (R82). -/
def Part.reload (p : Part) : Part :=
  { p with bus.readLatch := BitVec.ofNat 16 (leNat (Mem.readBytes p.mem p.dataAddr (if p.wordMode then 2 else 1))) }

/-- A read of DATA: the latch, then its reload, then the advance (R82). -/
def Part.readData (place : Word → Word) (p : Part) : Part :=
  ((p.drive (some (place p.bus.readLatch))).reload).advance

/-- A write of DATA: the store at the pointer as one access, then the advance (R83). -/
def Part.writeData (v : Word) (p : Part) : Part :=
  (p.store p.dataAddr (leBytes (if p.wordMode then 2 else 1) v.toNat)).advance

/-! ## Serial framing (R80) -/

/-- The register of a number (R77). -/
def regOfNumber (n : BitVec 3) : Reg :=
  if n = 0 then .pointer else if n = 1 then .data else if n = 2 then .winStart else if n = 3 then .winEnd
  else if n = 4 then .post else if n = 5 then .take else if n = 6 then .control else .notice

/-- What a start byte makes of the transaction: framed when prefix and identity match, else ignored (R80). -/
def startOf (sid : Bool) (b : Byte) : Serial :=
  if b.extractLsb' 5 3 = 6 ∧ b.getLsbD 4 = sid then .framed (regOfNumber (b.extractLsb' 1 3)) (b.getLsbD 0) else .ignoring

/-- The register of a low-byte access. -/
def regOfByte : ByteReg → Reg
  | .pointer => .pointer
  | .winStart => .winStart
  | .winEnd => .winEnd
  | .post => .post
  | .take => .take
  | .control => .control
  | .notice => .notice

/-- The register of a register write. -/
def regOfPlain : PlainReg → Reg
  | .pointer => .pointer
  | .winStart => .winStart
  | .winEnd => .winEnd
  | .take => .take

/-- The write effect of POINTER, WINSTART and WINEND: bits 14 to 0 are stored; a write to TAKE is ignored (R77, R81). -/
def Part.storeRegister (r : PlainReg) (v : Word) (p : Part) : Part :=
  match r with
  | .pointer => { p with bus.pointer := v.setWidth 15 }
  | .winStart => { p with bus.winStart := v.setWidth 15 }
  | .winEnd => { p with bus.winEnd := v.setWidth 15 }
  | .take => p

/-- The write effect of NOTICE: the selected sticky flags cleared, the mask replaced (R90). -/
def Part.writeNotice (v : Word) (p : Part) : Part :=
  { p with bus.sticky := p.bus.sticky &&& ~~~(lowByte v), bus.mask := highByte v }

/-- A low-byte read of the 8-bit mode: the whole register is read with its read effect, the low half driven and the high half
captured (R79). -/
def Part.lowByteOf (r : Reg) (p : Part) : Part :=
  let v := p.readRegister r
  let q := { p with bus.readCapture := highByte v }.drive (some ((lowByte v).setWidth 16))
  if r = .take then q.takeSlot else q

/-- A TAKE read: in the 8-bit mode its low-byte read, else the whole register (R79, R87, R109). -/
def Part.readTake (place : Word → Word) (p : Part) : Part :=
  if p.wordMode then (p.drive (some (place p.takeValue))).takeSlot else p.lowByteOf .take

/-- SEL_N goes low: a transaction starts, ignored where the port does not serve it; while one is under way it has no meaning
(R80, R86, R92, R186; log 12). -/
def Part.beginTransaction (p : Part) : Part :=
  if p.busMode = .serial ∧ p.bus.serial = .idle then
    { p with bus.serial := if p.served then .awaitStart else .ignoring }.drive none
  else p

/-- The eighth bit of a start byte has been sampled (R80). While the port does not serve, the clock stopped in ACTIVE, HOLD or BRACE
included, no start byte is taken, and its transaction is ignored to its end (log 12). -/
def Part.takeStart (b : Byte) (p : Part) : Part :=
  if p.busMode = .serial ∧ p.bus.serial = .awaitStart then
    { p with bus.serial := if p.served then startOf p.bus.sid b else .ignoring }
  else p

end Sys2Proof.Machine
end

