-- ==== Sys2Proof/Machine/ReclaimUnit.lean ====
section
/-! DEFINITION. The reclaim unit: evaluation of the chain, triggers and releases, the walk of the tail, copies, walk ends and
halts (R149 to R157), and the signals the segment table sends it (R51, R52). -/

namespace Sys2Proof.Machine

/-- A request that waits for room becomes eligible again (R128). -/
def Part.wakeRoom (p : Part) : Part :=
  { p with head.orderReq := p.head.orderReq.map fun r => { r with waitingRoom := false } }

/-- Put the reclaim unit in a state; leaving COPYING wakes a request waiting for room (R128). -/
def Part.toReclaim (st : ReclaimState) (p : Part) : Part :=
  let q := { p with reclaim.state := st }
  if p.reclaim.state = .copying ∧ st ≠ .copying then q.wakeRoom else q

/-- A RECLAIMING segment returns to CLOSED (R42). -/
def SegEntry.reopen (e : SegEntry) : SegEntry := if e.state = .reclaiming then { e with state := .closed } else e

/-- The unit's work is dropped: its waiting READ LINE and copy request are withdrawn, the record in hand dropped, a
RECLAIMING tail returned to CLOSED, the tail set to none (R156, R160, R149). -/
def Part.dropWalk (p : Part) : Part :=
  let q := p.dropWork .reclaim
  let q := match q.reclaim.tail with
    | some t => q.modSeg t SegEntry.reopen
    | none => q
  { q with reclaim.inHand := none, reclaim.copyWait := false, reclaim.tail := none, head.copyReq := none }

/-- An attached order whose segment is the halted tail ends FAULT / RECLAIM_HALTED (R156). -/
def Part.endHaltedOrder (tail : Option SegAddr) (p : Part) : Part :=
  match p.reclaim.attached with
  | none => p
  | some a =>
    if some a.seg = tail then { p with reclaim.attached := none }.complete a.slot (faultResult .reclaimHalted) else p

/-- The reclaim unit halts (R156). -/
def Part.haltReclaim (p : Part) : Part :=
  ((p.dropWalk.toReclaim .halted).raise .reclaimHalted).endHaltedOrder p.reclaim.tail

/-- What an evaluation of the chain decides (R150). -/
inductive ChainDecision where
  | idle | stalled | halt
  | take (a : SegAddr)
  deriving DecidableEq, Repr

/-- Evaluate the chain (R150). A lowest segment that is not CLOSED is not taken (R42; log 35). -/
def Part.decideChain (p : Part) : ChainDecision :=
  if p.chain.length < 2 then .idle
  else if p.saturation then .stalled
  else
    match lowestEpoch p.chain with
    | none => .idle
    | some (a, e) => if !p.present a.lane then .halt else if e.state = .closed then .take a else .idle

/-- Take a segment as the tail: it becomes RECLAIMING and the walk stands at line 1 (R42, R150). -/
def Part.takeTail (a : SegAddr) (origin : Origin) (p : Part) : Part :=
  let q := p.modSeg a (SegEntry.to .reclaiming)
  { q with
    reclaim.state := .copying, reclaim.tail := some a, reclaim.pos := 1, reclaim.copied := 0, reclaim.inHand := none,
    reclaim.copyWait := false, reclaim.origin := origin }

/-- Act on an evaluation's decision; the tail to walk, if one is to be taken (R150). -/
def Part.settleDecision (d : ChainDecision) (p : Part) : Part × Option SegAddr :=
  match d with
  | .idle => (p.toReclaim .idle, none)
  | .stalled => ((p.toReclaim .stalled).raise .saturated, none)
  | .halt => (p.haltReclaim, none)
  | .take a => (p, some a)

/-- The tail's walk ends: the tail becomes ERASE_WAIT with claimed lines 0, the tail becomes none, an order attached to it
records the copied lines (R155, R43). -/
def Part.endWalk (t : SegAddr) (p : Part) : Part :=
  let q := p.modSeg t fun e => { e with state := .eraseWait, claimed := 0 }
  { q with
    reclaim.tail := none, reclaim.inHand := none,
    reclaim.attached := q.reclaim.attached.map fun a => if a.seg = t then { a with recorded := some q.reclaim.copied } else a }

/-- The free count stands at or below the low-water mark in force (R51). -/
def Part.lowWater (p : Part) : Bool := decide (p.freeCount ≤ p.orders.lowMark)

/-- How the unit goes on after a walk end: by the pass origin (R155). -/
def Part.afterWalk (p : Part) : Part × Option SegAddr :=
  match p.reclaim.origin with
  | .trigger =>
    if p.freeCount < p.orders.highMark ∧ p.saturation = false then p.settleDecision p.decideChain
    else (p.toReclaim .idle, none)
  | .order =>
    let q := p.toReclaim .idle
    if q.lowWater then
      if q.active then q.settleDecision q.decideChain else ({ q with reclaim.latchedTrigger := true }, none)
    else (q, none)

/-- Place the walk's READ LINE of a line of the tail (R152). -/
def Part.readTail (t : SegAddr) (line : Nat) (p : Part) : Part := p.place t.lane .reclaim ⟨.readLine t.seg line, false⟩

/-- Go on with the walk from its position: read the line there, or end the walk and go on as R155 gives. Each walk end takes a
segment out of the chain, so the number of segments bounds the walks that one act can end. -/
def Part.walkFrom : Nat → Part → Part
  | 0, p => p
  | n + 1, p =>
    match p.reclaim.tail with
    | none => p
    | some t =>
      if p.reclaim.pos < (p.seg t).goodEnd then p.readTail t p.reclaim.pos
      else
        match (p.endWalk t).afterWalk with
        | (q, none) => q
        | (q, some a) => Part.walkFrom n (q.takeTail a .trigger)

/-- A bound on the walk ends of one act. -/
def Part.walkBound (p : Part) : Nat := p.entries.length + 1

/-- Go on with the walk (R152). -/
def Part.walk (p : Part) : Part := p.walkFrom p.walkBound

/-- Evaluate the chain and act on it (R150). -/
def Part.evaluate (origin : Origin) (p : Part) : Part :=
  match p.settleDecision p.decideChain with
  | (q, none) => q
  | (q, some a) => (q.takeTail a origin).walk

/-! ## Signals (R51, R52, R151) -/

/-- A reclaim trigger arrives (R151). -/
def Part.trigger (p : Part) : Part :=
  if p.active then
    match p.reclaim.state with
    | .idle | .stalled => p.evaluate .trigger
    | .copying | .halted => p
  else { p with reclaim.latchedTrigger := true }

/-- The segment table's comparison after a fall of the free count, or at a mount or intake end: a trigger at or below the
mark. None in WAITING, MOUNTING or FAILED, and none while a FORMAT has suspended the unit (R51). -/
def Part.compareLow (p : Part) : Part :=
  if p.mounted && !p.reclaim.suspended && p.lowWater then p.trigger else p

/-- Act on a release in STALLED, power state ACTIVE (R151). -/
def Part.actRelease (p : Part) : Part := if p.lowWater then p.evaluate .trigger else p.toReclaim .idle

/-- The release signal arrives (R151). -/
def Part.release (p : Part) : Part :=
  match p.reclaim.state with
  | .stalled => if p.active then p.actRelease else { p with reclaim.releasePending := true }
  | .idle | .copying | .halted => p

/-- A CLOSED segment's claimed lines have decreased from `before`: the release signal (R52). -/
def Part.releaseIfFell (a : SegAddr) (before : SegEntry) (p : Part) : Part :=
  if before.state = .closed ∧ (p.seg a).claimed < before.claimed then p.release else p

/-- A segment has entered CLOSED: the release signal when its claimed lines are below 126 (R52). -/
def Part.releaseIfClosed (a : SegAddr) (p : Part) : Part := if (p.seg a).claimed < 126 then p.release else p

/-- The return of the power state to ACTIVE reaches the reclaim unit (R151). -/
def Part.reclaimReturns (p : Part) : Part :=
  let latched := p.reclaim.latchedTrigger
  let released := p.reclaim.releasePending
  match p.reclaim.state with
  | .idle => if latched then { p with reclaim.latchedTrigger := false }.evaluate .trigger else p
  | .stalled =>
    let q := { p with reclaim.latchedTrigger := false, reclaim.releasePending := false }
    if released then q.actRelease else if latched then q.evaluate .trigger else p
  | .copying | .halted => { p with reclaim.latchedTrigger := false }

/-! ## The line read by the walk (R152, R154) -/

/-- The walk's record in hand has been dealt with: the walk position moves past it and the walk goes on (R152). -/
def Part.moveOn (lines : Nat) (p : Part) : Part := { p with reclaim.inHand := none, reclaim.pos := p.reclaim.pos + lines }.walk

/-- The copy request for the record in hand (R126). -/
def copyOf (t : SegAddr) (h : Hand) : CopyReq :=
  { key := h.header.key, sequence := h.header.sequence, length := h.header.length, lines := h.lines, loc := ⟨t, h.first⟩,
    bytes := h.bytes }

/-- Submit the copy of the record in hand (R153). -/
def Part.submitCopy (p : Part) : Part :=
  match p.reclaim.tail, p.reclaim.inHand with
  | some t, some h => { p with head.copyReq := some (copyOf t h), reclaim.copyWait := false }
  | _, _ => p

/-- The walk meets a blank line or a broken header below the good end: it ends there when no entry names a record of the tail,
and halts otherwise (R154). -/
def Part.walkStops (t : SegAddr) (p : Part) : Part :=
  if (p.seg t).claimed = 0 then
    match (p.endWalk t).afterWalk with
    | (q, none) => q
    | (q, some a) => (q.takeTail a .trigger).walk
  else p.haltReclaim

/-- The first line of a record of the tail arrives (R152). -/
def Part.walkHeader (t : SegAddr) (bytes : List Byte) (p : Part) : Part :=
  let n := p.reclaim.pos
  if blankLine bytes || !headerValid (p.seg t).epoch n bytes then p.walkStops t
  else
    let h := readHeader bytes
    let k := lineCount h.length
    match dirClaim p.dir h.key ⟨t, n⟩ with
    | none => p.moveOn k
    | some e =>
      if e.gone then (p.dirDrop h.key t).moveOn k
      else
        let q := { p with reclaim.inHand := some ⟨h, n, k, 1, bytes⟩ }
        if k ≤ 1 then q.submitCopy else q.readTail t (n + 1)

/-- A further line of the record in hand arrives (R152). -/
def Part.walkFurther (t : SegAddr) (h : Hand) (bytes : List Byte) (p : Part) : Part :=
  let h' := { h with got := h.got + 1, bytes := h.bytes ++ bytes }
  let q := { p with reclaim.inHand := some h' }
  if h.lines ≤ h'.got then q.submitCopy else q.readTail t (h.first + h'.got)

/-- A line of the walk arrives (R152). -/
def Part.walkLine (bytes : List Byte) (p : Part) : Part :=
  match p.reclaim.tail with
  | none => p
  | some t =>
    match p.reclaim.inHand with
    | none => p.walkHeader t bytes
    | some h => p.walkFurther t h bytes

/-! ## The head writer's answers (R153) -/

/-- The head writer's answer to a copy (R153). -/
inductive CopyAnswer where
  | completed | discarded | journalFull | laneLost | programFault | sequenceSpent
  deriving DecidableEq, Repr

/-- The unit acts on the answer to its copy; with no record in hand the answer is discarded (R153). -/
def Part.copyAnswer (ans : CopyAnswer) (p : Part) : Part :=
  match p.reclaim.tail, p.reclaim.inHand with
  | some t, some h =>
    match ans with
    | .completed => { p with reclaim.copied := p.reclaim.copied + h.lines }.moveOn h.lines
    | .discarded => p.moveOn h.lines
    | .journalFull => if p.eraseComing then { p with reclaim.copyWait := true } else p.haltReclaim
    | .laneLost => if p.present t.lane then p.submitCopy else p.haltReclaim
    | .programFault | .sequenceSpent => p.haltReclaim
  | _, _ => p

/-- The free count has risen: a request waiting for room becomes eligible, and a copy waiting for room is submitted again
(R128, R153). -/
def Part.afterRise (p : Part) : Part :=
  let q := p.wakeRoom
  if q.reclaim.copyWait then q.submitCopy else q

/-- A copy that waits for room with nothing left to erase on a usable lane halts the unit (R153). -/
def Part.recheckCopyWait (p : Part) : Part := if p.reclaim.copyWait && !p.eraseComing then p.haltReclaim else p

/-! ## Erase ends (R45, R157, R159, R162) -/

/-- How an erase was reported to have ended (R157). -/
inductive EraseReport where
  | free | bad | neither
  deriving DecidableEq, Repr

/-- The freed lines a RECLAIM order reports (R159). -/
def freedLines (rep : EraseReport) (recorded : Option Nat) : Word :=
  match rep with
  | .free => BitVec.ofNat 16 (lastRecordLine - recorded.getD 0)
  | .bad | .neither => 0

/-- The attached RECLAIM order receives the report of its segment (R159). -/
def Part.reportAttached (a : SegAddr) (rep : EraseReport) (p : Part) : Part :=
  match p.reclaim.attached with
  | none => p
  | some o =>
    if o.seg = a then
      { p with reclaim.attached := none }.complete o.slot { okResult with length := freedLines rep o.recorded }
    else p

/-- The FORMAT order completes; the reclaim unit is as R149 gives after it; no order is attached to it
while a FORMAT is in progress (R149, R162, R104). -/
def Part.endFormat (job : FormatJob) (p : Part) : Part :=
  { p with format := none, reclaim := { Reclaim.reset with attached := p.reclaim.attached } }.complete job.slot
    { okResult with length := BitVec.ofNat 16 job.bad }

/-- The FORMAT order receives the report of a segment of its set (R162). -/
def Part.reportFormat (a : SegAddr) (rep : EraseReport) (p : Part) : Part :=
  match p.format with
  | none => p
  | some job =>
    if job.taken && job.waitSet.contains a then
      let job' : FormatJob :=
        { job with waitSet := job.waitSet.filter (· != a), bad := job.bad + (if rep = .bad then 1 else 0) }
      if job'.waitSet.isEmpty then p.endFormat job' else { p with format := some job' }
    else p

/-- The segment table reports the end of a segment's erase to whoever waits on it (R157). -/
def Part.reportErase (a : SegAddr) (rep : EraseReport) (p : Part) : Part := (p.reportAttached a rep).reportFormat a rep

/-- An ERASE SEGMENT ends pass or fail (R45, R157). -/
def Part.eraseEnds (a : SegAddr) (pass : Bool) (p : Part) : Part :=
  if pass && !(p.seg a).retire then
    ((p.modSeg a fun _ => SegEntry.cleared .free).reportErase a .free).afterRise
  else ((p.modSeg a fun _ => SegEntry.cleared .bad).reportErase a .bad).recheckCopyWait

end Sys2Proof.Machine
end

