-- ==== Sys2Proof/Machine/HeadWriter.lean ====
section
/-! DEFINITION. The head writer: grants, placement, closing, opening, programming, completion, program failure and setting
back (R12, R13, R15, R39 to R41, R123 to R135). -/

namespace Sys2Proof.Machine

/-- A counter that is spent (R12, R13). -/
def spent : Long := 0xFFFFFFFF

/-- The line count of an append's record. -/
def Work.lines : Work → Nat
  | .order r => r.lines
  | .copy c => c.lines

/-- The free-count reserve: 2 for an order append, 1 for a copy (R127). -/
def Work.reserve : Work → Nat
  | .order _ => 2
  | .copy _ => 1

/-- How an append ends other than by completing (R118, R153). -/
inductive AppendEnd where
  | writeInhibited | sequenceSpent | journalFull | programFault | laneOffline | laneTimeout
  deriving DecidableEq, Repr

/-- The reason an order append's ending gives its order (R118). -/
def AppendEnd.reason : AppendEnd → Reason
  | .writeInhibited => .writeInhibited
  | .sequenceSpent => .sequenceSpent
  | .journalFull => .journalFull
  | .programFault => .programFault
  | .laneOffline => .laneOffline
  | .laneTimeout => .laneTimeout

/-- The answer a copy's ending gives the reclaim unit (R153); a copy never ends WRITE_INHIBITED (R126). -/
def AppendEnd.answer : AppendEnd → CopyAnswer
  | .writeInhibited => .discarded
  | .sequenceSpent => .sequenceSpent
  | .journalFull => .journalFull
  | .programFault => .programFault
  | .laneOffline | .laneTimeout => .laneLost

/-- An append ends: the head writer has none in progress, and the requester is told (R118, R153). -/
def Part.endAppend (why : AppendEnd) (a : Append) (p : Part) : Part :=
  let q := { p with head.append := none }
  match a.work with
  | .order _ => q.finishRecord { faultResult why.reason with retried := a.repeated, sequence := a.sequence }
  | .copy _ => q.copyAnswer why.answer

/-- Place a program request on a segment's lane, marked starting or continuing (R67). -/
def Part.placeProgram (s : SegAddr) (line : Nat) (bytes : List Byte) (continuing : Bool) (p : Part) : Part :=
  p.place s.lane .head ⟨.programLine s.seg line bytes, continuing⟩

/-- Hold an append as the one in progress. -/
def Part.setAppend (a : Append) (p : Part) : Part := { p with head.append := some a }

/-- The next line of an append's record, and the payload check register with the line's payload taken (R131, R11). -/
def Part.buildLine (p : Part) (s : SegAddr) (a : Append) : List Byte × Long :=
  let epoch := (p.seg s).epoch
  match a.work with
  | .order r =>
    let payload := Mem.readBytes p.mem (r.bufOffset.toNat + payloadStart a.done) (payloadCount r.length a.done)
    let crc := crc32Feed a.crc payload
    (orderLine (recordHeader r.tombstone false r.length r.key a.sequence epoch) payload r.length a.done crc, crc)
  | .copy c => (copyLine c epoch a.done, a.crc)

/-- Build the next record line and place its program (R131). -/
def Part.programNext (s : SegAddr) (first : Nat) (a : Append) (p : Part) : Part :=
  let built := p.buildLine s a
  (p.setAppend { a with crc := built.2 }).placeProgram s (first + a.done) built.1 a.started

/-- Begin programming the record at a line of the head; after a first failure this is the repeated attempt (R131, R133). -/
def Part.beginRecord (s : SegAddr) (first : Nat) (a : Append) (p : Part) : Part :=
  p.programNext s first { a with step := .programming s first, done := 0, crc := crc32Start, repeated := a.repeated || a.started }

/-- Close the head: build the trailer and place its program (R129). -/
def Part.closeHead (s : SegAddr) (cause : CloseCause) (a : Append) (p : Part) : Part :=
  let e := p.seg s
  (p.setAppend { a with step := .closing s cause }).placeProgram s trailerLine
    (trailer e.epoch e.goodEnd p.head.recordsInHead) a.started

/-- The free-count reserve is unmet: an order append waits for room while reclaim is COPYING and no record line has been
programmed, and otherwise ends JOURNAL_FULL; a copy ends JOURNAL_FULL (R127, R128). -/
def Part.reserveUnmet (a : Append) (p : Part) : Part :=
  match a.work with
  | .order r =>
    if !a.started && p.reclaim.state == .copying then
      { p with head.append := none, head.orderReq := some { r with sequence := some a.sequence, waitingRoom := true } }
    else p.endAppend .journalFull a
  | .copy _ => p.endAppend .journalFull a

/-- A FREE segment is taken for opening: OPENING with the epoch counter's value, the counter advanced, the last head lane
moved (R39, R49, R130). -/
def Part.takeOpening (s : SegAddr) (p : Part) : Part :=
  let q := p.modSeg s fun e => { e with state := .opening, epoch := p.head.epochCounter }
  { q with head.epochCounter := p.head.epochCounter + 1, lastHeadLane := s.lane }

/-- Open a segment for the append: the reserve, the epoch counter, the rotation, the header's program; the fall of the free
count may send a trigger (R127, R130, R51; log 24). -/
def Part.openSegment (a : Append) (p : Part) : Part :=
  if p.freeCount < a.work.reserve then p.reserveUnmet a
  else if p.head.epochCounter = spent then p.endAppend .sequenceSpent a
  else
    match p.rotation with
    | none => p.reserveUnmet a
    | some s =>
      ((((p.takeOpening s).setAppend { a with step := .opening s }).placeProgram s 0
        (segmentHeader p.head.epochCounter s) a.started)).compareLow

/-- The head has room for a record of `n` lines (R127). -/
def SegEntry.hasRoom (e : SegEntry) (n : Nat) : Bool := e.used == e.goodEnd - 1 && decide (e.used + n ≤ lastRecordLine)

/-- Placement (R127). -/
def Part.placement (a : Append) (p : Part) : Part :=
  match p.headSeg with
  | none => p.openSegment a
  | some (s, e) =>
    if e.hasRoom a.work.lines then p.beginRecord s (e.used + 1) a
    else if p.freeCount < a.work.reserve then p.reserveUnmet a
    else p.closeHead s .noRoom a

/-- An append at its grant. -/
def Append.fresh (w : Work) (sequence : Long) : Append :=
  { work := w, sequence := sequence, repeated := false, step := .placing, done := 0, started := false, crc := crc32Start,
    setBack := none }

/-! ## Grants (R124 to R126) -/

/-- The record unit's request is eligible (R124). -/
def Part.orderEligible (p : Part) : Bool := p.active && p.head.orderReq.any fun r => !r.waitingRoom

/-- The reclaim unit's request is eligible (R124). -/
def Part.copyEligible (p : Part) : Bool := p.active && !p.seen.winh && p.head.copyReq.isSome

/-- The head writer may grant the record unit now (R124). -/
def Part.mayGrantOrder (p : Part) : Bool :=
  p.head.append.isNone && p.orderEligible && !(p.copyEligible && p.head.lastGranted == .recordUnit)

/-- The head writer may grant the reclaim unit now (R124). -/
def Part.mayGrantCopy (p : Part) : Bool :=
  p.head.append.isNone && p.copyEligible && !(p.orderEligible && p.head.lastGranted == .reclaimUnit)

/-- The record unit's request is granted (R125). -/
def Part.grantRequest (r : OrderReq) (p : Part) : Part :=
  let q := { p with head.orderReq := none, head.lastGranted := .recordUnit }
  if p.seen.winh then q.finishRecord { faultResult .writeInhibited with sequence := r.sequence.getD 0 }
  else
    match r.sequence with
    | some n => q.placement (Append.fresh (.order r) n)
    | none =>
      if p.head.seqCounter = spent then q.finishRecord (faultResult .sequenceSpent)
      else
        { q with head.seqCounter := p.head.seqCounter + 1 }.placement (Append.fresh (.order r) p.head.seqCounter)

/-- Grant the record unit's request when the arbiter's turn allows it (R124, R125). -/
def Part.grantOrder (p : Part) : Part :=
  match p.head.orderReq with
  | none => p
  | some r => if p.mayGrantOrder then p.grantRequest r else p

/-- The reclaim unit's copy is granted with its claim check (R126, R22). -/
def Part.grantCopyReq (c : CopyReq) (p : Part) : Part :=
  let q := { p with head.copyReq := none, head.lastGranted := .reclaimUnit }
  match dirClaim p.dir c.key c.loc with
  | none => q.copyAnswer .discarded
  | some _ => q.placement (Append.fresh (.copy c) c.sequence)

/-- Grant the reclaim unit's copy when the arbiter's turn allows it (R124, R126). -/
def Part.grantCopy (p : Part) : Part :=
  match p.head.copyReq with
  | none => p
  | some c => if p.mayGrantCopy then p.grantCopyReq c else p

/-! ## Setting back (R135) -/

/-- The segment an append's step works on. -/
def AppendStep.seg : AppendStep → Option SegAddr
  | .placing => none
  | .closing s _ => some s
  | .opening s => some s
  | .programming s _ => some s

/-- An append leaves progress by a set-back: by WINH an order append ends WRITE_INHIBITED; by the power state it returns to
its request; a copy returns to its request, also after the reclaim unit has halted (R153), but is discarded while a FORMAT has
suspended that unit (R135, R160; log 17). -/
def Part.setBackNow (cause : SetBack) (a : Append) (p : Part) : Part :=
  match a.work with
  | .order r =>
    match cause with
    | .winh => p.endAppend .writeInhibited a
    | .power =>
      { p with head.append := none, head.orderReq := some { r with sequence := some a.sequence, waitingRoom := false } }
  | .copy c =>
    if p.reclaim.suspended then { p with head.append := none }
    else { p with head.append := none, head.copyReq := some c }

/-- The append's waiting starting request is withdrawn. A segment taken for opening whose header was not yet issued is FREE
again, its epoch consumed (R135; log 15). -/
def Part.withdrawStarting (s : SegAddr) (step : AppendStep) (p : Part) : Part :=
  let q := p.withdraw s.lane .head
  match step with
  | .opening _ => (q.modSeg s fun _ => SegEntry.cleared .free).afterRise
  | .placing | .closing _ _ | .programming _ _ => q

/-- A set-back that waits for the program in flight; WINH prevails (R135; log 16). -/
def Append.noteSetBack (cause : SetBack) (a : Append) : Append :=
  match a.setBack with
  | some .winh => a
  | _ => { a with setBack := some cause }

/-- WINH has been asserted or the power state has left ACTIVE: set the append in progress back, or note that it will be when
its trailer or header in flight ends; an append with a record line programmed or in flight is not set back (R135). -/
def Part.requestSetBack (cause : SetBack) (p : Part) : Part :=
  match p.head.append with
  | none => p
  | some a =>
    if a.started then p
    else
      match a.step.seg with
      | none => p
      | some s =>
        if (p.lane s.lane).flier = some .head then
          match a.step with
          | .programming _ _ => p
          | .placing | .closing _ _ | .opening _ => p.setAppend (a.noteSetBack cause)
        else (p.withdrawStarting s a.step).setBackNow cause a

/-! ## Program ends (R40, R41, R129 to R134) -/

/-- How a program of the head writer ended. -/
inductive ProgEnd where
  | pass | fail | laneOffline | laneTimeout
  deriving DecidableEq, Repr

/-- The segment entry after the trailer's program (R41, R54, R129). -/
def SegEntry.closedBy (cause : CloseCause) (o : ProgEnd) (e : SegEntry) : SegEntry :=
  { e with state := .closed, trailered := o == .pass, retire := e.retire || cause != .noRoom || o == .fail }

/-- The append goes on after a close or a failed opening: set back if that was decided, else to its opening (R135). -/
def Part.onward (a : Append) (p : Part) : Part :=
  match a.setBack with
  | some cause => p.setBackNow cause a
  | none => p.openSegment a

/-- The trailer's program ends (R41, R129, R133). -/
def Part.closeEnds (s : SegAddr) (cause : CloseCause) (o : ProgEnd) (a : Append) (p : Part) : Part :=
  let q := { p.modSeg s (SegEntry.closedBy cause o) with head.recordsInHead := 0 }
  let q := if (p.seg s).state = .head then q.releaseIfClosed s else q
  match cause with
  | .secondFailure => q.endAppend .programFault a
  | .noRoom | .firstFailure => q.onward a

/-- The header's program ends (R40, R130). -/
def Part.openEnds (s : SegAddr) (o : ProgEnd) (a : Append) (p : Part) : Part :=
  match o with
  | .pass =>
    let q := { p.modSeg s (fun e => { e with state := .head, used := 0, goodEnd := 1, claimed := 0, trailered := false })
      with head.recordsInHead := 0 }.wakeRoom
    match a.setBack with
    | some cause => q.setBackNow cause a
    | none => q.beginRecord s 1 a
  | .fail | .laneOffline | .laneTimeout =>
    (p.modSeg s fun e => { e with state := .eraseWait, retire := true }).onward a

/-- Run a directory change of a key, then the release signal if the segment that held the key's record was CLOSED and its
claimed lines fell (R52). -/
def Part.withRelease (key : Long) (change : Part → Part) (p : Part) : Part :=
  match dirLookup p.dir key with
  | none => change p
  | some old => (change p).releaseIfFell old.loc.addr (p.seg old.loc.addr)

/-- The last line of a record has passed: good end, records in head, the directory's change, and the answer (R132). -/
def Part.completeAppend (s : SegAddr) (first : Nat) (a : Append) (p : Part) : Part :=
  let q := { p.modSeg s (fun e => { e with goodEnd := first + a.work.lines }) with
    head.recordsInHead := p.head.recordsInHead + 1, head.append := none }
  match a.work with
  | .order r =>
    (q.withRelease r.key (Part.dirAppend (orderEntry r a.sequence ⟨s, first⟩))).finishRecord
      { okResult with retried := a.repeated, sequence := a.sequence }
  | .copy c => (q.withRelease c.key (Part.dirRepoint c.key ⟨s, first⟩)).copyAnswer .completed

/-- A record line of the head has been programmed, passing or failing (R15). -/
def Part.useLine (s : SegAddr) (line : Nat) (p : Part) : Part := p.modSeg s fun e => { e with used := line }

/-- A record line's program ends (R15, R131 to R134). -/
def Part.lineEnds (s : SegAddr) (first : Nat) (o : ProgEnd) (a : Append) (p : Part) : Part :=
  let line := first + a.done
  match o with
  | .pass =>
    let a' := { a with done := a.done + 1, started := true }
    if a.work.lines ≤ a'.done then (p.useLine s line).completeAppend s first a'
    else (p.useLine s line).programNext s first a'
  | .fail =>
    (p.useLine s line).closeHead s (if a.repeated then .secondFailure else .firstFailure) { a with started := true }
  | .laneOffline => p.endAppend .laneOffline a
  | .laneTimeout => p.endAppend .laneTimeout a

/-- A program of the append in progress ends (R129 to R134). -/
def Part.programEnds (o : ProgEnd) (p : Part) : Part :=
  match p.head.append with
  | none => p
  | some a =>
    match a.step with
    | .placing => p
    | .closing s cause => p.closeEnds s cause o a
    | .opening s => p.openEnds s o a
    | .programming s first => p.lineEnds s first o a

end Sys2Proof.Machine
end

