-- ==== Sys2Proof/Machine/RecordUnit.lean ====
section
/-! DEFINITION. The record unit: PUT, DROP, GET and SURVEY (R115 to R122). -/

namespace Sys2Proof.Machine

/-- The EXPECT option is set (R93). -/
def OrderFields.expects (f : OrderFields) : Bool := f.options.getLsbD 0

/-- The record unit takes an order (R115). -/
def Part.holdRecord (n : SlotNo) (f : OrderFields) (step : RecordStep) (p : Part) : Part :=
  { p with record := some ⟨n, f, step⟩ }

/-- The sequence of the key's entry at the lookup; 0 if the key was absent (R118). -/
def sequenceOf (e : Option DirEntry) : Long := (e.map (·.sequence)).getD 0

/-- The key has a LIVE entry. -/
def isLive (e : Option DirEntry) : Bool := e.any fun x => !x.gone

/-- A PUT's EXPECT is met: without the option always; expected sequence 0 needs the key absent or GONE, any other a LIVE entry
of that sequence (R116). -/
def putExpectOk (f : OrderFields) (e : Option DirEntry) : Bool :=
  !f.expects || (if f.keyHi = 0 then !isLive e else isLive e && sequenceOf e == f.keyHi)

/-- A DROP's EXPECT is met by its LIVE entry: the option needs that sequence, which is never 0 (R117). -/
def dropExpectOk (f : OrderFields) (e : DirEntry) : Bool := !f.expects || (f.keyHi != 0 && e.sequence == f.keyHi)

/-- The order append request of a PUT (R116). -/
def putRequest (f : OrderFields) : OrderReq :=
  { tombstone := false, key := f.key, length := f.bufLength.toNat, bufOffset := f.bufOffset,
    lines := lineCount f.bufLength.toNat, sequence := none, waitingRoom := false }

/-- The order append request of a DROP (R117). -/
def dropRequest (f : OrderFields) : OrderReq :=
  { tombstone := true, key := f.key, length := 0, bufOffset := 0, lines := 1, sequence := none, waitingRoom := false }

/-- The record unit holds the order and places its request with the head writer (R116, R117). -/
def Part.requestAppend (n : SlotNo) (f : OrderFields) (r : OrderReq) (p : Part) : Part :=
  { p.holdRecord n f .waiting with head.orderReq := some r }

/-- A PUT handed to the record unit (R116). -/
def Part.takePut (n : SlotNo) (f : OrderFields) (p : Part) : Part :=
  let e := dirLookup p.dir f.key
  if !putExpectOk f e then p.complete n { faultResult .mismatch with sequence := sequenceOf e }
  else if e.isNone && decide (dirCapacity ≤ p.dir.length) then p.complete n (faultResult .directoryFull)
  else p.requestAppend n f (putRequest f)

/-- A DROP handed to the record unit (R117). -/
def Part.takeDrop (n : SlotNo) (f : OrderFields) (p : Part) : Part :=
  match dirLookup p.dir f.key with
  | none => p.complete n (faultResult .notFound)
  | some e =>
    if e.gone then p.complete n { faultResult .notFound with sequence := e.sequence }
    else if !dropExpectOk f e then p.complete n { faultResult .mismatch with sequence := e.sequence }
    else p.requestAppend n f (dropRequest f)

/-! ## GET (R119 to R121) -/

/-- A GET's outcome carries the sequence and payload length of its expected header (R119, R121). -/
def getResult (e : DirEntry) (r : Result) : Result := { r with sequence := e.sequence, length := BitVec.ofNat 16 e.length }

/-- A GET's read ends: the readers count is released and the outcome written (R121). -/
def Part.endGet (g : GetRead) (r : Result) (p : Part) : Part := (p.releaseReader g.holds).finishRecord (getResult g.entry r)

/-- Read the next line of a GET's record; a lane that is not PRESENT ends the request at once (R71, R120). -/
def Part.readGet (g : GetRead) (p : Part) : Part :=
  let a := g.entry.loc.addr
  let q := { p with record := p.record.map fun (o : RecordOrder) => { o with step := .reading g } }
  if p.present a.lane then q.place a.lane .record ⟨.readLine a.seg (g.entry.loc.line + g.next), false⟩
  else q.endGet g (faultResult .laneOffline)

/-- A GET handed to the record unit (R119). -/
def Part.takeGet (n : SlotNo) (f : OrderFields) (p : Part) : Part :=
  match dirLookup p.dir f.key with
  | none => p.complete n (faultResult .notFound)
  | some e =>
    if e.gone then p.complete n (faultResult .notFound)
    else if f.bufLength.toNat < e.length then p.complete n (getResult e (faultResult .shortBuffer))
    else
      let g : GetRead := { entry := e, next := 0, delivered := 0, run := PayloadRun.start, holds := e.loc.addr }
      ((p.holdRecord n f (.reading g)).takeReader e.loc.addr).readGet g

/-- The header read agrees with the entry and with the segment's epoch; the COPIED flag is not compared (R120, R140). -/
def headerAgrees (e : DirEntry) (epoch : Long) (h : RecHeader) : Bool :=
  h.kind == 1 && flagsOk h && h.key == e.key && h.sequence == e.sequence && h.length == e.length && h.tag == epochTag epoch

/-- A line of a GET whose header has been judged: its payload goes to the buffer, the payload check runs on, and the last line
ends the order (R120). -/
def Part.getPayload (o : RecordOrder) (g : GetRead) (bytes : List Byte) (p : Part) : Part :=
  let len := g.entry.length
  let payload := payloadOf len g.next bytes
  let q := p.store (o.fields.bufOffset.toNat + payloadStart g.next) payload
  let g' := { g with next := g.next + 1, delivered := g.delivered + payload.length, run := g.run.feed len g.next bytes }
  if g.entry.lines ≤ g'.next then q.endGet g' (if g'.run.ok then okResult else faultResult .dataCheck)
  else q.readGet g'

/-- A line of a GET arrives: the first is judged before any byte is written (R120). -/
def Part.getLine (bytes : List Byte) (p : Part) : Part :=
  match p.record with
  | none => p
  | some o =>
    match o.step with
    | .waiting => p
    | .reading g =>
      if g.next = 0 ∧ headerCheckOk bytes = false then p.endGet g (faultResult .headerCheck)
      else if g.next = 0 ∧ headerAgrees g.entry (p.seg g.entry.loc.addr).epoch (readHeader bytes) = false then
        p.endGet g (faultResult .staleTag)
      else p.getPayload o g bytes

/-- A READ LINE of a GET ends on its lane (R121). -/
def Part.getLost (why : Reason) (p : Part) : Part :=
  match p.record with
  | none => p
  | some o =>
    match o.step with
    | .waiting => p
    | .reading g => p.endGet g (faultResult why)

/-! ## SURVEY (R122) -/

/-- A SURVEY handed to the record unit: the survey record into the first 64 bytes of the buffer as one access, then OK
(R122). While it builds the record the unit holds the order. -/
def Part.takeSurvey (n : SlotNo) (f : OrderFields) (p : Part) : Part :=
  (p.store f.bufOffset.toNat p.surveyRecord).complete n okResult

/-- A clear ends the record unit's order without an outcome (R115). -/
def Part.clearRecord (p : Part) : Part :=
  let q := p.dropWork .record
  let q := { q with record := none, head.orderReq := none }
  match p.record with
  | some ⟨_, _, .reading g⟩ => q.releaseReader g.holds
  | _ => q

end Sys2Proof.Machine
end

