-- ==== Sys2Proof/Machine/ScanUnit.lean ====
section
/-! DEFINITION. The scan unit: the walk, the reads and their judgment, hits, cuts and endings (R136 to R147). -/

namespace Sys2Proof.Machine

/-- The compare mode ANY (R142). -/
def modeAny : Byte := 5

/-- The number of result entries the area holds (R136). -/
def OrderFields.capacity (f : OrderFields) : Nat := f.bufLength.toNat / 8

/-- The scan unit's SCAN changed. -/
def Part.setScan (o : ScanOrder) (p : Part) : Part := { p with scan := some o }

/-- A scan ends: the counts and the resume key with its class and reason (R147). -/
def Part.endScan (o : ScanOrder) (r : Result) (resume : Long) (p : Part) : Part :=
  { p with scan := none }.complete o.slot
    { r with damagedSeen := decide (1 ≤ o.damaged), length := BitVec.ofNat 16 o.hits, examined := BitVec.ofNat 16 o.examined,
             resume := resume, damaged := BitVec.ofNat 8 o.damaged }

/-- PARTIAL with a reason. -/
def partialResult (why : Reason) : Result := { cls := .partly, reason := why }

/-- One more examined, up to 65,535 (R143). -/
def ScanOrder.examine (o : ScanOrder) : ScanOrder := { o with examined := min 65535 (o.examined + 1) }

/-- The walk has finished with an entry: the cursor stands one above its key (R138). -/
def ScanOrder.passKey (key : Long) (o : ScanOrder) : ScanOrder := { o with cursor := key + 1, inHand := none }

/-- A selected entry is damaged (R141). -/
def ScanOrder.countDamaged (key : Long) (o : ScanOrder) : ScanOrder :=
  ({ o with damaged := min 255 (o.damaged + 1) }.examine).passKey key

/-- The 8 bytes of a scan result entry (R94). -/
def scanEntryBytes (key sequence : Long) : List Byte := leBytes 4 key.toNat ++ leBytes 4 sequence.toNat

/-- A hit: a result entry when there is room, else the scan ends PARTIAL / AREA_FULL (R143). -/
def Part.scanHit (o : ScanOrder) (key sequence : Long) (p : Part) : Part :=
  if o.hits < o.fields.capacity then
    (p.store (o.fields.bufOffset.toNat + 8 * o.hits) (scanEntryBytes key sequence)).setScan
      (({ o with hits := o.hits + 1 }.examine).passKey key)
  else p.endScan o (partialResult .areaFull) key

/-- The first read position of a selected entry (R140). -/
def scanHandOf (e : DirEntry) : ScanHand :=
  { entry := e, next := 0, headerJudged := false, readSequence := 0, run := PayloadRun.start, compare := .eq, holds := e.loc.addr }

/-- Read the next line of the entry in hand; a lane that is not PRESENT ends the request at once and the entry is damaged
(R71, R140, R141). -/
def Part.readScan (o : ScanOrder) (h : ScanHand) (p : Part) : Part :=
  let a := h.entry.loc.addr
  if p.present a.lane then
    (p.setScan { o with inHand := some h }).place a.lane .scan ⟨.readLine a.seg (h.entry.loc.line + h.next), false⟩
  else (p.releaseReader h.holds).setScan (o.countDamaged h.entry.key)

/-- A selected entry is taken in hand (R139, R140). -/
def Part.scanSelect (o : ScanOrder) (e : DirEntry) (p : Part) : Part :=
  let o' := { o with skip := o.fields.step.toNat - 1 }
  if o.fields.mode = modeAny then p.scanHit o' e.key e.sequence
  else (p.takeReader e.loc.addr).readScan o' (scanHandOf e)

/-- The unit acts at an entry boundary: a pending cut, a pause, or one ordered lookup and what it answers (R138, R139;
log 25). -/
def Part.scanBoundary (p : Part) : Part :=
  match p.scan with
  | none => p
  | some o =>
    if o.inHand.isSome then p
    else if o.cutPending then p.endScan o (partialResult .cut) o.cursor
    else if !p.active then p
    else
      match dirNext p.dir o.cursor o.fields.keyHi with
      | none => p.endScan o okResult 0
      | some e =>
        if e.gone then p.setScan (o.passKey e.key)
        else if o.skip = 0 then p.scanSelect o e
        else p.setScan ({ o with skip := o.skip - 1 }.passKey e.key)

/-- A SCAN handed to the scan unit: its walk begins at the first entry boundary (R137). -/
def Part.takeScan (n : SlotNo) (f : OrderFields) (p : Part) : Part :=
  (p.setScan { slot := n, fields := f, cursor := f.key, skip := 0, hits := 0, examined := 0, damaged := 0, inHand := none,
               cutPending := false }).scanBoundary

/-! ## The comparison (R142) -/

/-- Compare bytes from the lowest offset, each unsigned: the first that differ decide (R142). -/
def compareBytes : List Byte → List Byte → Ordering
  | x :: xs, y :: ys => if x < y then .lt else if y < x then .gt else compareBytes xs ys
  | _, _ => .eq

/-- The compare field lies beyond the payload (R142). -/
def OrderFields.fieldBeyond (f : OrderFields) (length : Nat) : Bool :=
  decide (length < f.cmpOffset.toNat + f.patLength.toNat)

/-- The comparison after the payload bytes of line `j`: the field's bytes in the line against the pattern's (R140, R142). -/
def OrderFields.compareLine (f : OrderFields) (j : Nat) (payload : List Byte) (sofar : Ordering) : Ordering :=
  let start := payloadStart j
  let co := f.cmpOffset.toNat
  let pl := f.patLength.toNat
  let field := (payload.drop (co - start)).take (co + pl - max co start)
  let pattern := (f.pattern.take pl).drop (start - co)
  match sofar with
  | .eq => compareBytes field pattern
  | .lt => .lt
  | .gt => .gt

/-- A mode's answer to a comparison (R142). -/
def modeHit (mode : Byte) (c : Ordering) : Bool :=
  if mode = 1 then c == .eq
  else if mode = 2 then c != .lt
  else if mode = 3 then c != .gt
  else if mode = 4 then c != .eq
  else true

/-! ## Lines (R140, R141) -/

/-- The read of the entry in hand ended damaged; the walk goes on at the next entry boundary (R141). -/
def Part.scanDamaged (o : ScanOrder) (h : ScanHand) (p : Part) : Part :=
  ((p.releaseReader h.holds).setScan (o.countDamaged h.entry.key)).scanBoundary

/-- The last line has arrived: damaged, no hit, or a hit (R140, R142, R143). -/
def Part.scanDecide (o : ScanOrder) (h : ScanHand) (p : Part) : Part :=
  if !h.run.ok then p.scanDamaged o h
  else
    let q := p.releaseReader h.holds
    if !o.fields.fieldBeyond h.entry.length && modeHit o.fields.mode h.compare then
      (q.scanHit { o with inHand := none } h.entry.key h.readSequence).scanBoundary
    else (q.setScan (o.examine.passKey h.entry.key)).scanBoundary

/-- A line whose record's header has been judged: the payload check and the comparison run on (R140). -/
def Part.scanPayload (o : ScanOrder) (h : ScanHand) (bytes : List Byte) (p : Part) : Part :=
  let len := h.entry.length
  let h' := { h with
    next := h.next + 1, run := h.run.feed len h.next bytes,
    compare := o.fields.compareLine h.next (payloadOf len h.next bytes) h.compare }
  if h.entry.lines ≤ h'.next then p.scanDecide o h'
  else (p.readScan o h').scanBoundary

/-- A line of the entry in hand arrives (R140). -/
def Part.scanLine (bytes : List Byte) (p : Part) : Part :=
  match p.scan with
  | none => p
  | some o =>
    match o.inHand with
    | none => p
    | some h =>
      if h.headerJudged then p.scanPayload o h bytes
      else if headerCheckOk bytes && headerAgrees h.entry (p.seg h.entry.loc.addr).epoch (readHeader bytes) then
        p.scanPayload o { h with headerJudged := true, readSequence := (readHeader bytes).sequence } bytes
      else p.scanDamaged o h

/-- A READ LINE of the scan ends on its lane (R141). -/
def Part.scanLost (p : Part) : Part :=
  match p.scan with
  | none => p
  | some o =>
    match o.inHand with
    | none => p
    | some h => p.scanDamaged o h

/-! ## Cut and clear (R136, R146) -/

/-- The scan drops its entry in hand: the request withdrawn, the readers count released (R146). -/
def Part.dropScanHand (o : ScanOrder) (p : Part) : Part :=
  match o.inHand with
  | none => p
  | some h => (p.dropWork .scan).releaseReader h.holds

/-- A cut request reaches the scan unit (R146, R113). -/
def Part.cutScan (p : Part) : Part :=
  match p.scan with
  | none => p
  | some o =>
    if p.active then (p.setScan { o with cutPending := true }).scanBoundary
    else (p.dropScanHand o).endScan o (partialResult .cut) o.cursor

/-- A clear ends the SCAN without an outcome: the unit's READ LINE is withdrawn or its result discarded, the readers count of an
entry in hand released (R136). -/
def Part.clearScan (p : Part) : Part :=
  let q := { p.dropWork .scan with scan := none }
  match p.scan.bind (·.inHand) with
  | some h => q.releaseReader h.holds
  | none => q

end Sys2Proof.Machine
end

