-- ==== Sys2Proof/Machine/MountEngine.lean ====
section
/-! DEFINITION. The mount engine: identifying, the header step, the records step, lanes lost during mount and the mount's end
(R58, R164 to R175). -/

namespace Sys2Proof.Machine

/-! ## Requests (R65, R166, R175) -/

/-- The line the header step reads of a segment (R167). -/
def HeaderSub.line : HeaderSub → Nat
  | .line0 => 0
  | .trailer _ => trailerLine
  | .blank n => n

/-- The operation the mount engine needs next on a lane, if any. -/
def Part.mountOp (p : Part) (l : Lane) : Option StoreOp :=
  let lm := p.mount.lanes.get l
  match p.mount.step with
  | .identify | .headers =>
    match (p.lane l).state with
    | .unknown => if lm.identEnded then none else some .identify
    | .present => if lm.nextSeg < (p.lane l).count then some (.readLine lm.nextSeg lm.sub.line) else none
    | .absent | .offline => none
  | .records =>
    match p.mount.walk with
    | some w => if w.addr.lane = l ∧ p.present l then some (.readLine w.addr.seg w.nextLine) else none
    | none => none
  | .settle | .ended => none

/-- Place the mount engine's next request on a lane, unless one waits or is in flight; none is placed in PARK (R65, R175). -/
def Part.placeMount (l : Lane) (p : Part) : Part :=
  match p.mountOp l with
  | none => p
  | some op =>
    if p.power.state = .park ∨ p.power.state = .stopped ∨ (p.lane l).waiting.mount.isSome
        ∨ (p.lane l).flier = some .mount then p
    else p.place l .mount ⟨op, false⟩

/-- Place the mount engine's next requests on all lanes. -/
def Part.placeMountAll (p : Part) : Part := (((p.placeMount 0).placeMount 1).placeMount 2).placeMount 3

/-! ## Ending (R172 to R174) -/

/-- Count segments damaged (R164). -/
def Part.countDamaged (n : Nat) (p : Part) : Part := { p with mount.damaged := p.mount.damaged + n }

/-- The mount ends: the state and outcome code, the survey record at 0000hex, MOUNT_ENDED, and the low-water comparison unless
intake has not ended (R173, R51). -/
def Part.endMount (st : MountState) (code : Nat) (p : Part) : Part :=
  let q := { p with mount.state := st, mount.step := .ended, mount.walk := none, mount.outcome := code }
  let q := (q.store 0 q.surveyRecord).raise .mountEnded
  if q.orders.intake = .ended then q.compareLow else q

/-- A chain member the records step has not walked, after a FAILED mount: untrailered, good end 1 and used lines 126 (R174). -/
def SegEntry.unwalked (walked : Long) (e : SegEntry) : SegEntry :=
  if e.state = .closed ∧ e.trailered = false ∧ walked < e.epoch then { e with goodEnd := 1, used := lastRecordLine } else e

/-- The segment being walked when the mount ends FAILED keeps the good end found so far (R174; log 20). -/
def Part.cutWalk (p : Part) : Part :=
  match p.mount.walk with
  | none => p
  | some w =>
    p.modSeg w.addr fun e => if e.trailered then e else { e with goodEnd := w.pos, used := lastRecordLine }

/-- The epoch of the segment being walked; 0 before the records step. -/
def Part.walkEpoch (p : Part) : Long :=
  match p.mount.walk with
  | none => 0
  | some w => (p.seg w.addr).epoch

/-- The mount ends FAILED: the directory empty, the counters 0, no HEAD (R174, R32). -/
def Part.failMount (code : Nat) (p : Part) : Part :=
  let q := (p.mapSegs fun _ e => e.unwalked p.walkEpoch).cutWalk
  { q with
    dir := [], head.seqCounter := 0, head.epochCounter := 0, head.recordsInHead := 0, lastHeadLane := 3 }.endMount .failed code

/-- Any lane is OFFLINE. -/
def Part.anyOffline (p : Part) : Bool := p.lanes.toList.any fun r => r.state == .offline

/-- Any lane is PRESENT. -/
def Part.anyPresent (p : Part) : Bool := p.lanes.toList.any fun r => r.state == .present

/-- The youngest chain member becomes HEAD when it is untrailered, has a line left and its lane is not OFFLINE (R172). Its line
127 may then hold a torn trailer and be programmed again at its close, against R2 and R10 (log 37). -/
def Part.becomesHead (p : Part) (a : SegAddr) (e : SegEntry) : Bool :=
  !e.trailered && decide (e.used < lastRecordLine) && p.present a.lane

/-- Claimed lines for every segment from the built directory (R32, R172). -/
def Part.computeClaims (p : Part) : Part := p.mapSegs fun a e => { e with claimed := claimedIn p.dir a }

/-- HEAD, counters, records in head and last head lane from the chain found (R172). -/
def Part.restoreHead (p : Part) : Part :=
  match highestEpoch p.chain with
  | none => { p with head.seqCounter := 1, head.epochCounter := 1, head.recordsInHead := 0, lastHeadLane := 3 }
  | some (a, e) =>
    let head := p.becomesHead a e
    let q := if head then p.modSeg a (SegEntry.to .head) else p
    { q with
      head.seqCounter := p.mount.maxSeq + 1, head.epochCounter := e.epoch + 1,
      head.recordsInHead := if head then p.mount.lastAccepted else 0, lastHeadLane := a.lane }

/-- The records step has walked every chain member: the tables are completed and the mount ends MOUNTED or DEGRADED (R172,
R173). -/
def Part.completeTables (p : Part) : Part :=
  let q := p.computeClaims.restoreHead
  if q.anyOffline || decide (1 ≤ q.mount.damaged) then q.endMount .degraded 2 else q.endMount .mounted 1

/-! ## The records step (R169 to R171) -/

/-- The chain member of lowest epoch above one. -/
def Part.nextMember (p : Part) (after : Long) : Option (SegAddr × SegEntry) :=
  lowestEpoch (p.chain.filter fun x => decide (after < x.2.epoch))

/-- The walk of a trailered segment reaches its good end: damaged if the accepted records are not as many as the trailer says
(R169). -/
def Part.finishTrailered (a : SegAddr) (accepted : Nat) (p : Part) : Part :=
  let q := { p with mount.lastAccepted := accepted }
  match p.mount.kept.find? (·.1 == a) with
  | some (_, count) => if count = accepted then q else q.countDamaged 1
  | none => q

/-- A chain member whose lane was lost before its walk: good end 1; counted damaged if trailered, used lines 126 if not, the
youngest included (R171; log 38). -/
def Part.lostMember (a : SegAddr) (p : Part) : Part :=
  let q := { p with mount.lastAccepted := 0 }
  if (p.seg a).trailered then (q.modSeg a fun e => { e with goodEnd := 1 }).countDamaged 1
  else q.modSeg a fun e => { e with goodEnd := 1, used := lastRecordLine }

/-- Go on to the chain member after an epoch: members that need no read are finished in the same act, a trailered one of good end 1
also where its lane is lost (log 39); after the last the tables are completed (R169, R171). -/
def Part.walkMembers : Nat → Long → Part → Part
  | 0, _, p => p
  | n + 1, after, p =>
    match p.nextMember after with
    | none => p.completeTables
    | some (a, e) =>
      if e.trailered && decide (e.goodEnd ≤ 1) then Part.walkMembers n e.epoch (p.finishTrailered a 0)
      else if !p.present a.lane then Part.walkMembers n e.epoch (p.lostMember a)
      else { p with mount.walk := some ⟨a, 1, 0, .header, 1, 0⟩ }

/-- The walk of a segment has ended: the next chain member (R169). -/
def Part.nextWalk (w : MountWalk) (p : Part) : Part :=
  { p with mount.walk := none }.walkMembers (p.entries.length + 1) (p.seg w.addr).epoch

/-- The walk stands at its next line. -/
def Part.setWalk (w : MountWalk) (p : Part) : Part := { p with mount.walk := some w }

/-- A trailered segment's walk stops short of its trailer's good end: damaged (R169). -/
def Part.stopTrailered (w : MountWalk) (p : Part) : Part :=
  (({ p with mount.lastAccepted := w.accepted }.modSeg w.addr fun e => { e with goodEnd := w.pos }).countDamaged 1).nextWalk w

/-- An untrailered segment's used lines are known and its walk ends (R170). Where the last line of the youngest's last record reads
all FFhex, they lie below good end - 1, against R14 and R30: the model follows R170 (log 42). -/
def Part.finishUntrailered (w : MountWalk) (used : Nat) (p : Part) : Part :=
  ({ p with mount.lastAccepted := w.accepted }.modSeg w.addr fun e => { e with used := used }).nextWalk w

/-- The segment is the youngest chain member (R170). -/
def Part.youngest (p : Part) (a : SegAddr) : Bool := (highestEpoch p.chain).any (·.1 == a)

/-- An untrailered segment's good end is found; the youngest is read on from line `next` to line 126 (R170). -/
def Part.endUntrailered (w : MountWalk) (next : Nat) (p : Part) : Part :=
  let q := p.modSeg w.addr fun e => { e with goodEnd := w.pos }
  if p.youngest w.addr then
    if next ≤ lastRecordLine then q.setWalk { w with phase := .rest, nextLine := next } else q.finishUntrailered w w.high
  else q.finishUntrailered w lastRecordLine

/-- The highest line of 1 to 126 not blank, with one more line read (R170; log 42). -/
def MountWalk.see (bytes : List Byte) (w : MountWalk) : MountWalk :=
  { w with high := if blankLine bytes then w.high else max w.high w.nextLine }

/-- A record is accepted: applied to the directory, or the mount ends FAILED on its overflow (R31, R32, R169). -/
def Part.acceptRecord (w : MountWalk) (h : RecHeader) (p : Part) : Option Part :=
  match dirMount (mountEntry h ⟨w.addr, w.pos⟩ (lineCount h.length)) p.dir with
  | none => none
  | some d => some { p with dir := d, mount.maxSeq := if p.mount.maxSeq < h.sequence then h.sequence else p.mount.maxSeq }

/-- The walk past an accepted record. -/
def MountWalk.past (h : RecHeader) (w : MountWalk) : MountWalk :=
  { w with pos := w.pos + lineCount h.length, accepted := w.accepted + 1, phase := .header,
           nextLine := w.pos + lineCount h.length }

/-- A header line of a trailered segment with good end `g` (R169). -/
def Part.trailedLine (w : MountWalk) (g : Nat) (bytes : List Byte) (p : Part) : Part :=
  let h := readHeader bytes
  if headerValid (p.seg w.addr).epoch w.pos bytes && decide (w.pos + lineCount h.length - 1 ≤ g - 1) then
    match p.acceptRecord w h with
    | none => p.failMount 5
    | some q =>
      let w' := w.past h
      if g ≤ w'.pos then (q.finishTrailered w.addr w'.accepted).nextWalk w' else q.setWalk w'
  else p.stopTrailered w

/-- Every line of a record of an untrailered segment has been read: accepted when its payload check passes (R170). -/
def Part.judgeRecord (w : MountWalk) (r : WalkRec) (p : Part) : Part :=
  if r.run.ok then
    match p.acceptRecord w r.header with
    | none => p.failMount 5
    | some q =>
      let w' := w.past r.header
      if trailerLine ≤ w'.pos then q.endUntrailered w' w'.pos else q.setWalk w'
  else p.endUntrailered w (w.nextLine + 1)

/-- A line of a record of an untrailered segment: its payload check runs on (R170). -/
def Part.recordLine (w : MountWalk) (r : WalkRec) (bytes : List Byte) (p : Part) : Part :=
  let r' : WalkRec := { r with got := r.got + 1, run := r.run.feed r.header.length r.got bytes }
  if lineCount r.header.length ≤ r'.got then p.judgeRecord w r'
  else p.setWalk { w with phase := .payload r', nextLine := w.nextLine + 1 }

/-- A line of the records step arrives (R169, R170). -/
def Part.walkMountLine (w0 : MountWalk) (bytes : List Byte) (p : Part) : Part :=
  let e := p.seg w0.addr
  let w := w0.see bytes
  match w.phase with
  | .header =>
    if e.trailered then p.trailedLine w e.goodEnd bytes
    else if blankLine bytes || !headerValid e.epoch w.pos bytes then p.endUntrailered w (w.pos + 1)
    else p.recordLine w ⟨readHeader bytes, 0, PayloadRun.start⟩ bytes
  | .payload r => p.recordLine w r bytes
  | .rest => if lastRecordLine ≤ w.nextLine then p.finishUntrailered w w.high else p.setWalk { w with nextLine := w.nextLine + 1 }

/-! ## The header step (R167, R168) -/

/-- The header step's progress on a lane. -/
def Part.setLaneMount (l : Lane) (lm : LaneMount) (p : Part) : Part := { p with mount.lanes := p.mount.lanes.set l lm }

/-- The segment of a lane has been judged: the next one (R167). -/
def Part.nextHeader (l : Lane) (p : Part) : Part :=
  let lm := p.mount.lanes.get l
  p.setLaneMount l { lm with nextSeg := lm.nextSeg + 1, sub := .line0 }

/-- Go on reading the same segment. -/
def Part.setSub (l : Lane) (sub : HeaderSub) (p : Part) : Part :=
  p.setLaneMount l { p.mount.lanes.get l with sub := sub }

/-- A line of the header step arrives (R167). -/
def Part.headerLine (l : Lane) (bytes : List Byte) (p : Part) : Part :=
  let lm := p.mount.lanes.get l
  let a : SegAddr := ⟨l, lm.nextSeg⟩
  match lm.sub with
  | .line0 =>
    match judgeHeader a bytes with
    | .valid epoch =>
      (p.modSeg a fun e => { e with state := .closed, epoch := epoch, claimed := 0, readers := 0 }).setSub l (.trailer epoch)
    | .blank => p.setSub l (.blank 1)
    | .invalid => (p.countDamaged 1).nextHeader l
  | .trailer epoch =>
    match judgeTrailer epoch bytes with
    | some (g, count) =>
      let q := p.modSeg a fun e => { e with trailered := true, goodEnd := g, used := g - 1 }
      { q with mount.kept := q.mount.kept ++ [(a, count)] }.nextHeader l
    | none => (p.modSeg a fun e => { e with trailered := false, goodEnd := 1, used := 0 }).nextHeader l
  | .blank n =>
    if !blankLine bytes then (p.countDamaged 1).nextHeader l
    else if trailerLine ≤ n then (p.modSeg a fun _ => SegEntry.cleared .free).nextHeader l
    else p.setSub l (.blank (n + 1))

/-- Every lane has finished the header step, or can no longer be read (R167). -/
def Part.headersDone (p : Part) : Bool :=
  allLanes.all fun l => !p.present l || decide ((p.lane l).count ≤ (p.mount.lanes.get l).nextSeg)

/-- Two chain members carry the same epoch (R168). -/
def Part.epochConflict (p : Part) : Bool := !decide ((p.chain.map (·.2.epoch)).Nodup)

/-- The header step ends (R166, R168, R173). -/
def Part.endHeaders (p : Part) : Part :=
  if p.chain.isEmpty && !p.anyPresent then p.failMount 3
  else if p.epochConflict then p.failMount 4
  else { p with mount.step := .records }.walkMembers (p.entries.length + 1) 0

/-- All four IDENTIFY operations have ended (R166). -/
def Part.identified (p : Part) : Bool := p.mount.lanes.toList.all (·.identEnded)

/-- A lane has become PRESENT in this mount; one that has gone OFFLINE since remains a present lane (R57, R166; log 33). -/
def Part.anyIdentified (p : Part) : Bool := p.lanes.toList.any fun r => r.state.inPresentSet

/-- The identify step ends when all four IDENTIFYs have: FAILED when no lane has become PRESENT, else headers (R166; log 33). -/
def Part.endIdentify (p : Part) : Part :=
  if p.mount.step == .identify && p.identified then
    (if p.anyIdentified then { p with mount.step := .headers } else p.failMount 3)
  else p

/-- The mount engine takes stock after an event of its own: steps that have ended, then its next requests. -/
def Part.mountProgress (p : Part) : Part :=
  if p.mount.state = .mounting then
    let q := p.endIdentify
    let q := if q.mount.step == .headers && q.headersDone then q.endHeaders else q
    q.placeMountAll
  else p

/-! ## Events -/

/-- A READ LINE of the mount engine ends (R167, R169, R170). -/
def Part.mountLine (l : Lane) (bytes : List Byte) (p : Part) : Part :=
  match p.mount.step with
  | .identify | .headers => (p.headerLine l bytes).mountProgress
  | .records =>
    match p.mount.walk with
    | some w => (p.walkMountLine w bytes).mountProgress
    | none => p
  | .settle | .ended => p

/-- The IDENTIFY of a lane has ended (R58, R166). -/
def Part.noteIdentified (l : Lane) (p : Part) : Part :=
  p.setLaneMount l { p.mount.lanes.get l with identEnded := true }

/-- A lane becomes PRESENT with its count, its entries created UNSWEPT, or ABSENT (R58, R166). -/
def Part.identifyAs (l : Lane) (count : Nat) (p : Part) : Part :=
  if 16 ≤ count ∧ count ≤ 1024 then
    let q := p.setLane l { p.lane l with state := .present, count := count }
    { q with segs := q.segs.set l (List.replicate count (SegEntry.cleared .unswept)) }.noteIdentified l
  else (p.setLane l { p.lane l with state := .absent, count := 0 }).noteIdentified l

/-- The STORE_GOOD settle count of mount ends: IDENTIFY on all four lanes (R165, R166). -/
def Part.startMount (p : Part) : Part :=
  { p with mount.state := .mounting, mount.step := .identify, mount.settle := false }.placeMountAll

/-- The header step loses a lane that was PRESENT: its segments not yet judged stay UNSWEPT and count damaged; one whose header
was valid is CLOSED with used lines 126 (R171). -/
def Part.loseHeaders (l : Lane) (p : Part) : Part :=
  let lm := p.mount.lanes.get l
  let left := (p.lane l).count - lm.nextSeg
  if left = 0 then p
  else
    let q := match lm.sub with
      | .line0 | .blank _ => p.countDamaged left
      | .trailer _ => (p.modSeg ⟨l, lm.nextSeg⟩ fun e => { e with goodEnd := 1, used := lastRecordLine }).countDamaged (left - 1)
    q.setLaneMount l ⟨lm.identEnded, (p.lane l).count, .line0⟩

/-- The records step loses the lane of the segment being walked: the youngest chain member has used lines 126 (R171; log 21). A
segment whose walk has begun is taken as being walked, its first READ LINE ended or not (log 44). -/
def Part.loseWalk (p : Part) : Part :=
  match p.mount.walk with
  | none => p
  | some w =>
    if p.present w.addr.lane then p
    else
      ({ p with mount.lastAccepted := w.accepted }.modSeg w.addr fun e =>
        { e with goodEnd := if w.phase = WalkPhase.rest then e.goodEnd else w.pos,
                 used := if e.trailered && !p.youngest w.addr then e.used else lastRecordLine }).nextWalk w

/-- Lanes that were PRESENT have gone OFFLINE during mount (R171). -/
def Part.mountLoses (lost : List Lane) (p : Part) : Part :=
  if p.mount.state = .mounting then
    match p.mount.step with
    | .identify | .headers => (lost.foldl (fun q l => q.loseHeaders l) p).mountProgress
    | .records => p.loseWalk.mountProgress
    | .settle | .ended => p
  else p

end Sys2Proof.Machine
end

