-- ==== Sys2Proof/Machine/LaneLoss.lean ====
section
/-! DEFINITION. Lanes going OFFLINE and what the neighbours do with it (R41, R47, R69, R70). -/

namespace Sys2Proof.Machine

/-- How a requester's operation on a lane that goes OFFLINE ended: in flight with the given reason, waiting LANE_OFFLINE, none
when it has neither (R69, R70). A result to be discarded ends nothing (R73); a request held back behind it is then placed on the
OFFLINE lane and ends at once (R71). -/
def LaneRec.ended (why : Reason) (rq : Requester) (r : LaneRec) : Option Reason :=
  if r.inFlight.any fun f => f.requester == rq && !f.discard then some why
  else if (r.waiting.get rq).isSome || (r.discards rq && r.heldBack.isSome) then some .laneOffline
  else none

/-- How a requester's operation on the lost lanes ended. -/
def Part.endedOn (p : Part) (lost : List Lane) (why : Reason) (rq : Requester) : Option Reason :=
  lost.findSome? fun l => (p.lane l).ended why rq

/-- A lane record as its lane goes OFFLINE: nothing in flight, nothing waiting, the link released, the count kept (R69). -/
def LaneRec.offline (r : LaneRec) : LaneRec :=
  { r with state := .offline, inFlight := none, heldBack := none, waiting := .empty, linkDriven := false }

/-- The lost lanes' records become OFFLINE. -/
def Part.dropLanes (lost : List Lane) (p : Part) : Part := lost.foldl (fun q l => q.setLane l (q.lane l).offline) p

/-- A HEAD on a lost lane is abandoned: CLOSED, untrailered; the release signal follows if its claimed lines are below 126 (R41,
R47, R52; log 30). -/
def Part.abandonHead (lost : List Lane) (p : Part) : Part :=
  match p.headSeg with
  | none => p
  | some (a, _) =>
    if lost.contains a.lane then
      ({ p.modSeg a (fun e => { e with state := .closed, trailered := false }) with head.recordsInHead := 0 }).releaseIfClosed a
    else p

/-- The segments in ERASE_WAIT or ERASING on the lost lanes. -/
def Part.lostErases (p : Part) (lost : List Lane) : List SegAddr :=
  (p.entries.filter fun x => (x.2.state == .eraseWait || x.2.state == .erasing) && lost.contains x.1.lane).map (·.1)

/-- The segment table reports the erases that lost lanes have ended (R157). -/
def Part.reportLost (lost : List Lane) (p : Part) : Part :=
  (p.lostErases lost).foldl (fun q a => q.reportErase a .neither) p

/-- The tail lies on a lost lane. -/
def Part.tailLost (p : Part) (lost : List Lane) : Bool := p.reclaim.tail.any fun t => lost.contains t.lane

/-- The reclaim unit takes the report: it halts when its tail's lane is lost, and checks a copy that waits for room again (R153,
R156). -/
def Part.reclaimLoses (lost : List Lane) (p : Part) : Part :=
  if p.tailLost lost then p.haltReclaim else p.recheckCopyWait

/-- The segment table and the reclaim unit take the report; a fall of the free count may send a trigger (R47, R51). -/
def Part.tablesLose (lost : List Lane) (p : Part) : Part :=
  let before := p.freeCount
  let q := ((p.dropLanes lost).raise .laneOffline).abandonHead lost
  let q := if q.freeCount < before then q.compareLow else q
  (q.reportLost lost).reclaimLoses lost

/-- The record unit's read ended (R121). -/
def Part.recordLoses (why : Option Reason) (p : Part) : Part :=
  match why with
  | some r => p.getLost r
  | none => p

/-- The scan unit's read ended (R141). -/
def Part.scanLoses (why : Option Reason) (p : Part) : Part := if why.isSome then p.scanLost else p

/-- The head writer's program ended (R134, R40, R41). -/
def Part.headLoses (why : Option Reason) (p : Part) : Part :=
  match why with
  | some .laneTimeout => p.programEnds .laneTimeout
  | some _ => p.programEnds .laneOffline
  | none => p

/-- PRESENT lanes go OFFLINE in one act; an operation in flight ends with the given reason, LANE_TIMEOUT or LANE_OFFLINE, and the
requesters act on theirs (R69, R70; the order of the parts: log 14). With no lane PRESENT nothing is lost and no notice is raised
(log 41). -/
def Part.loseLanes (lost : List Lane) (why : Reason) (p : Part) : Part :=
  if lost.isEmpty then p
  else
    let ended := p.endedOn lost why
    ((((p.tablesLose lost).mountLoses lost).recordLoses (ended .record)).scanLoses (ended .scan)).headLoses (ended .head)

/-- The lanes that are PRESENT. -/
def Part.presentLanes (p : Part) : List Lane := allLanes.filter p.present

/-- Every PRESENT lane goes OFFLINE, as a loss of store supply makes it (R70). -/
def Part.loseSupply (p : Part) : Part := p.loseLanes p.presentLanes .laneOffline

/-- A lane becomes ABSENT, its IDENTIFY ended without an answer (R58). -/
def Part.becomeAbsent (l : Lane) (p : Part) : Part :=
  (p.setLane l { p.lane l with state := .absent, count := 0, inFlight := none, heldBack := none, waiting := .empty }).noteIdentified l

/-- A lane's IDENTIFY is waiting or in flight. -/
def LaneRec.identifying (r : LaneRec) : Bool :=
  r.state == .unknown && (r.inFlight.any (·.op == .identify) || r.waiting.mount.any (·.op == .identify))

/-- A lane whose IDENTIFY is waiting or in flight at a fall of STORE_GOOD becomes ABSENT (R58, R70). -/
def Part.dropIdentify (l : Lane) (p : Part) : Part := if (p.lane l).identifying then p.becomeAbsent l else p

/-- Every lane whose IDENTIFY is waiting or in flight becomes ABSENT (R58, R70). -/
def Part.dropIdentifies (p : Part) : Part :=
  (((p.dropIdentify 0).dropIdentify 1).dropIdentify 2).dropIdentify 3

/-- STORE_GOOD falls in ACTIVE, HOLD or BRACE (R70). -/
def Part.supplyFalls (p : Part) : Part := (p.dropIdentifies.loseSupply).mountProgress

end Sys2Proof.Machine
end

