-- ==== Sys2Proof/Machine/PowerControl.lean ====
section
/-! DEFINITION. Power control: the power states and what each change hands to the blocks, containment and quiet, park, wake and
stop, the inputs, the clear and the full reset (R177 to R186). -/

namespace Sys2Proof.Machine

/-! ## Quiet and park (R181, R182) -/

/-- No lane has an operation in flight and no append is in progress (R74, R181). -/
def Part.quiet (p : Part) : Bool := p.lanes.toList.all (·.inFlight.isNone) && p.head.append.isNone

/-- The state is HOLD or BRACE. -/
def Part.contained (p : Part) : Bool := p.power.state == .hold || p.power.state == .brace

/-- The park is entered: PARK, park pending no, the mount settle count stopped, the mount engine's requests held back (R182, R165,
R175; log 19). -/
def Part.enterPark (p : Part) : Part :=
  let q := { p with power.state := .park, power.parkPending := false, mount.settle := false }
  (((q.withdraw 0 .mount).withdraw 1 .mount).withdraw 2 .mount).withdraw 3 .mount

/-- Quiet is noticed: BRACED is raised in BRACE (R181). -/
def Part.noteQuiet (p : Part) : Part :=
  let q := { p with power.quietSeen := true }
  if p.power.state = .brace then q.raise .braced else q

/-- Power control watches for quiet in HOLD and BRACE: quiet newly reached is noticed, and a pending park is entered (R181,
R182). -/
def Part.watchQuiet (p : Part) : Part :=
  if p.contained && p.quiet then
    let q := if p.power.quietSeen then p else p.noteQuiet
    if q.power.parkPending then q.enterPark else q
  else p

/-! ## Changes of the power state (R177, R180) -/

/-- STORE_GOOD, as the part sees it, lets the mount settle count run: WAITING, the zeroing ended, ACTIVE, HOLD or BRACE
(R165). -/
def Part.mountMaySettle (p : Part) : Bool :=
  p.mount.state == .waiting && !p.zeroing && p.power.state != .park && p.power.state != .stopped

/-- The mount settle count starts from zero if it may run (R165). -/
def Part.startSettle (p : Part) : Part := { p with mount.settle := p.seen.storeGood && p.mountMaySettle }

/-- The state becomes HOLD or BRACE: an append with no record line programmed is set back, and power control watches for quiet
anew (R135, R181). -/
def Part.enterContained (st : PowerState) (p : Part) : Part :=
  (({ p with power.state := st, power.quietSeen := false }).requestSetBack .power).watchQuiet

/-- The state becomes ACTIVE: the reclaim unit and the scan unit take up their held work (R151, R145; log 25). The dispatcher's
and the arbiters' part are commands of their own. -/
def Part.enterActive (p : Part) : Part := ({ p with power.state := .active }).reclaimReturns.scanBoundary

/-- HOLD, or BRACE while PWARN stands asserted (R179). -/
def Part.heldState (p : Part) : PowerState := if p.seen.pwarn then .brace else .hold

/-- PARK is left for HOLD or BRACE at the end of a wake (R183, R179). -/
def Part.endWake (p : Part) : Part :=
  { p with power.state := p.heldState, power.wake := none, power.parkPending := false, power.quietSeen := false }

/-- What follows once PARK is left: the mount engine goes on, then the containment is watched (R175, R165, R181). -/
def Part.afterPark (p : Part) : Part := p.startSettle.placeMountAll.watchQuiet

/-! ## CONTROL (R178, R183, R185) -/

/-- A wake begins; its settle count runs if STORE_GOOD is asserted (R183). -/
def Part.beginWake (p : Part) : Part := { p with power.wake := some ⟨p.seen.storeGood⟩ }

/-- The bus port keeps the levels of a CONTROL write (R88). -/
def Part.keepLevels (hold park : Bool) (p : Part) : Part := { p with bus.holdLevel := hold, bus.parkLevel := park }

/-- Power control acts on the two levels of a CONTROL write (R178). -/
def Part.actLevels (hold park : Bool) (p : Part) : Part :=
  match p.power.state with
  | .active => if hold || park then { p with power.parkPending := park }.enterContained .hold else p
  | .hold =>
    let q := { p with power.parkPending := park }
    if !hold && !park && !p.seen.pwarn && !p.power.clearPending then q.enterActive else q.watchQuiet
  | .brace => { p with power.parkPending := park }.watchQuiet
  | .park =>
    if park then { p with power.wake := none }
    else if p.power.wake.isSome then p else p.beginWake
  | .stopped => p

/-- The HOLD and PARK fields of a CONTROL write: kept and acted on (R88, R178). -/
def Part.controlLevels (v : Word) (p : Part) : Part :=
  (p.keepLevels (v.getLsbD 0) (v.getLsbD 1)).actLevels (v.getLsbD 0) (v.getLsbD 1)

/-- A clear request: clear pending, and ACTIVE becomes HOLD (R185). -/
def Part.requestClear (p : Part) : Part :=
  let q := { p with power.clearPending := true }
  if p.active then q.enterContained .hold else q

/-- The CLEAR field of a CONTROL write (R88). -/
def Part.controlClear (v : Word) (p : Part) : Part := if v.getLsbD 2 then p.requestClear else p

/-- The CUT field of a CONTROL write (R88). -/
def Part.controlCut (v : Word) (p : Part) : Part := if v.getLsbD 3 then p.cutScan else p

/-! ## Inputs (R179, R135, R70, R165, R183; log 11) -/

/-- The part sees the PWARN level (R179). -/
def Part.seePwarn (level : Bool) (p : Part) : Part :=
  let q := { p with seen.pwarn := level }
  match p.power.state with
  | .active | .hold => if level then q.enterContained .brace else q
  | .brace => if level then q else q.enterContained .hold
  | .park | .stopped => q

/-- The part sees the WINH level: a rise sets an append back; requests and eligibility follow the level (R135, R44, R67). -/
def Part.seeWinh (level : Bool) (p : Part) : Part :=
  let q := { p with seen.winh := level }
  if level && !p.seen.winh then q.requestSetBack .winh else q

/-- A wake's settle count starts or stops with STORE_GOOD (R183). -/
def Part.wakeSettle (level : Bool) (p : Part) : Part :=
  { p with power.wake := p.power.wake.map fun _ => ⟨level⟩ }

/-- The part sees the STORE_GOOD level (R70, R165, R183). -/
def Part.seeStoreGood (level : Bool) (p : Part) : Part :=
  if level = p.seen.storeGood then p
  else
    let q := (({ p with seen.storeGood := level }).wakeSettle level).startSettle
    if !level && p.power.state != .park && p.power.state != .stopped then q.supplyFalls else q

/-- The part sees the three inputs as they stand on the pins (log 11). -/
def Part.seeInputs (p : Part) : Part := ((p.seePwarn p.pins.pwarn).seeWinh p.pins.winh).seeStoreGood p.pins.storeGood

/-- An input's level changes on its pin, and the part sees it if it takes events (R184, R186). -/
def Part.pinEvent (pin : Part → Part) (see : Part → Part) (p : Part) : Part := (pin p).act see

/-! ## The clear (R114, R149, R151, R185) -/

/-- The slots that are held. -/
def Part.heldSlots (p : Part) : List SlotNo := (List.finRange 32).filter fun n => (p.slot n).held

/-- A clear in the order block: held slots read ABANDONED, and all else but the configuration is as after reset (R114). -/
def Part.clearOrders (p : Part) : Part :=
  let q := p.heldSlots.foldl (fun q n => q.writePhase n abandonedByte) p
  { q with
    orders.slots := Vector.replicate 32 ⟨false, .idle⟩, orders.postQueue := [], orders.doneList := [],
    orders.lastPost := .none, format := none }

/-- A clear in the reclaim unit (R149, R151). -/
def Part.clearReclaim (p : Part) : Part :=
  let q := p.dropWalk
  { q with
    reclaim := { Reclaim.reset with latchedTrigger := q.mounted && q.lowWater } }

/-- The power state after a clear, from the inputs and levels (R185). -/
def Part.afterClear (p : Part) : Part :=
  match p.power.state with
  | .park | .stopped => p
  | .active => p
  | .hold =>
    if p.seen.pwarn then p.enterContained .brace
    else if p.bus.holdLevel || p.bus.parkLevel then p
    else p.enterActive
  | .brace =>
    if p.seen.pwarn then p
    else if p.bus.holdLevel || p.bus.parkLevel then p.enterContained .hold
    else p.enterActive

/-- The clear takes effect in one act (R185). -/
def Part.clearNow (p : Part) : Part :=
  let q := ((p.clearOrders.clearRecord).clearScan).clearReclaim
  { q with bus.sticky := 0, power.clearPending := false }.afterClear

/-- The clear takes effect as soon as it may: pending, not ACTIVE, no append in progress (R185). -/
def Part.takeClear (p : Part) : Part :=
  if p.power.clearPending && !p.active && p.head.append.isNone then p.clearNow else p

/-- The clear of a CONTROL write that also requests a cut takes effect, where it may, before the cut is handed on (R88, R185;
log 43). -/
def Part.clearBeforeCut (v : Word) (p : Part) : Part := if v.getLsbD 2 && v.getLsbD 3 then p.takeClear else p

/-! ## Wake, stop and return (R183, R184) -/

/-- The wake settle count reaches 1 ms (R183). -/
def Part.wakeSettles (p : Part) : Part :=
  if p.power.state == .park && p.power.wake.any (·.settle) then p.endWake.afterPark else p

/-- The wake limit expires: PARK is left and every PRESENT lane goes OFFLINE in one act, so that a mount the loss moves on moves on in
HOLD or BRACE (R183, R175). -/
def Part.wakeExpires (p : Part) : Part :=
  if p.power.state == .park && p.power.wake.isSome then p.endWake.loseSupply.afterPark else p

/-- What a serial transaction under way becomes when the part stops serving for good: it is ignored to its end (R186, R92;
log 12). -/
def Serial.afterReset : Serial → Serial
  | .idle => .idle
  | .awaitStart | .ignoring | .framed _ _ => .ignoring

/-- STOPPED releases SDO: a serial transaction under way is ignored to its end (R92; log 12). -/
def Part.releaseLink (p : Part) : Part :=
  if p.busMode = .serial then { p with bus.serial := p.bus.serial.afterReset, bus.dataOut := none } else p

/-- The reference clock stops: in PARK the part is STOPPED; elsewhere every block stops where it stands (R184, R92). -/
def Part.stopClock (p : Part) : Part :=
  let q := { p with power.clockRunning := false, power.returnCounting := false }
  if p.power.state = .park then { q with power.state := .stopped, power.wake := none }.releaseLink else q

/-- The reference clock returns: in STOPPED the return count starts; elsewhere the inputs are seen again (R184; log 11). -/
def Part.returnClock (p : Part) : Part :=
  if p.power.clockRunning then p
  else
    let q := { p with power.clockRunning := true }
    if p.power.state = .stopped then { q with power.returnCounting := true } else q.act Part.seeInputs

/-- PARK again after the return count: the inputs are seen, and a wake begins if the PARK level is 0 (R184). -/
def Part.backToPark (p : Part) : Part :=
  let q := { p with power.state := .park, power.returnCounting := false }.seeInputs
  if q.bus.parkLevel then q else q.beginWake

/-- The return count ends (R184). -/
def Part.returnEnds (p : Part) : Part :=
  if p.power.state == .stopped && p.power.returnCounting && !p.power.resetLow && p.power.clockRunning then
    p.backToPark.refreshErase
  else p

/-! ## Full reset (R186) -/

/-- Every block at its reset values; the pins, the clock, exchange memory and the free values' number stand. -/
def Part.resetWith (st : Straps) (p : Part) : Part :=
  { Part.reset st with
    pins := p.pins, mem := p.mem, freeIndex := p.freeIndex, bus.serial := p.bus.serial.afterReset,
    power := { Power.reset with clockRunning := p.power.clockRunning } }

/-- The straps as they are latched. -/
def Part.latched (p : Part) : Straps := ⟨p.bus.busSel, p.bus.byteOrd, p.bus.sid, p.bus.cfgSel⟩

/-- RESET_N falls (R186; log 31). -/
def Part.assertReset (p : Part) : Part :=
  { p.resetWith p.latched with zeroing := false, power.resetLow := true }

/-- RESET_N is released: the straps latched, the zeroing begun, and the inputs seen as they stand (R186, R179). -/
def Part.releaseReset (st : Straps) (p : Part) : Part :=
  if p.power.resetLow then (p.resetWith st).act Part.seeInputs else p

/-- The zeroing ends: every byte 00hex, and STORE_GOOD already asserted counts from here (R86, R165). -/
def Part.endZeroing (p : Part) : Part :=
  if p.zeroing then { p with mem := [], zeroing := false }.startSettle else p

end Sys2Proof.Machine
end

