-- ==== Sys2Proof/Machine/LaneControllers.lean ====
section
/-! DEFINITION. The lane controllers: grants, the request frames, and the ends of operations (R58 to R68). -/

namespace Sys2Proof.Machine

/-! ## Grants (R66, R67) -/

/-- The cycle of requesters from the one after a requester (R66). -/
def Requester.after : Requester → List Requester
  | .mount => [.record, .scan, .reclaim, .head, .erase, .mount]
  | .record => [.scan, .reclaim, .head, .erase, .mount, .record]
  | .scan => [.reclaim, .head, .erase, .mount, .record, .scan]
  | .reclaim => [.head, .erase, .mount, .record, .scan, .reclaim]
  | .head => [.erase, .mount, .record, .scan, .reclaim, .head]
  | .erase => [.mount, .record, .scan, .reclaim, .head, .erase]

/-- A waiting request is grantable (R67). -/
def Part.grantable (p : Part) (rq : Requester) (r : Request) : Bool :=
  match rq with
  | .mount => true
  | .record | .scan | .reclaim => p.active
  | .head => r.continuing || (p.active && !p.seen.winh)
  | .erase => p.active && !p.seen.winh

/-- A requester's waiting request on a lane, when it is grantable. -/
def Part.grantableOf (p : Part) (l : Lane) (rq : Requester) : Option Request :=
  ((p.lane l).waiting.get rq).filter (p.grantable rq)

/-- The request a lane controller grants next: the first grantable one after the last granted (R66). -/
def Part.nextGrant (p : Part) (l : Lane) : Option (Requester × Request) :=
  (p.lane l).lastGranted.after.findSome? fun rq => (p.grantableOf l rq).map fun r => (rq, r)

/-- The time limit of an operation in milliseconds (R68). -/
def StoreOp.limitMs : StoreOp → Nat
  | .identify => 2
  | .readLine _ _ => 1
  | .programLine _ _ _ => 6
  | .eraseSegment _ => 80

/-- The bits of a byte in the order they are sent, the most significant first (R59, R80). -/
def byteBits (b : Byte) : List Bool := (List.range 8).map fun i => b.getLsbD (7 - i)

/-- The bits of a frame in the order they are sent (R59). -/
def frameBits (bytes : List Byte) : List Bool := bytes.flatMap byteBits

/-- The request frame of an operation, multi-byte fields low byte first (R59). -/
def StoreOp.requestFrame : StoreOp → List Byte
  | .identify => [0x51]
  | .readLine seg line => [0x52] ++ leBytes 2 seg ++ leBytes 1 line
  | .programLine seg line bytes => [0x53] ++ leBytes 2 seg ++ leBytes 1 line ++ bytes
  | .eraseSegment seg => [0x54] ++ leBytes 2 seg

/-- The lane record once a request has been granted: its operation in flight with its time limit (R60, R66, R68). -/
def LaneRec.grant (rq : Requester) (r : Request) (x : LaneRec) : LaneRec :=
  { x with
    inFlight := some ⟨rq, r.op, r.op.limitMs, false⟩, waiting := x.waiting.set rq none, lastGranted := rq, linkDriven := true }

/-- A granted erase takes its segment into ERASING, whose epoch is 0 (R44, R35). -/
def Part.eraseGranted (l : Lane) (op : StoreOp) (p : Part) : Part :=
  match op with
  | .eraseSegment i => p.modSeg ⟨l, i⟩ fun e => { e with state := .erasing, epoch := 0 }
  | .identify | .readLine _ _ | .programLine _ _ _ => p

/-- A lane controller issues an operation; the part is no longer quiet (R60, R66, R74). -/
def Part.issue (l : Lane) (rq : Requester) (r : Request) (p : Part) : Part :=
  ({ p.setLane l ((p.lane l).grant rq r) with power.quietSeen := false }).eraseGranted l r.op

/-- A lane with nothing in flight makes its next grant (R66). -/
def Part.grantLane (l : Lane) (p : Part) : Part :=
  match (p.lane l).inFlight, p.nextGrant l with
  | none, some (rq, r) => p.issue l rq r
  | _, _ => p

/-! ## Ends of operations (R58, R60, R62 to R64) -/

/-- The lane record once its operation in flight has ended: a request held back for its result waits from now on (R65). -/
def LaneRec.landed (r : LaneRec) : LaneRec :=
  match r.inFlight, r.heldBack with
  | some f, some q =>
    if r.discards f.requester then
      { r with inFlight := none, heldBack := none, waiting := r.waiting.set f.requester (some q) }
    else { r with inFlight := none, heldBack := none }
  | _, _ => { r with inFlight := none, heldBack := none }

/-- The operation in flight on a lane has ended. -/
def Part.landed (l : Lane) (p : Part) : Part := p.setLane l (p.lane l).landed

/-- An IDENTIFY ends with its response frame (R58, R61). -/
def Part.identifyEnds (l : Lane) (lo hi : Byte) (p : Part) : Part :=
  match (p.lane l).inFlight with
  | some ⟨_, .identify, _, _⟩ => ((p.landed l).identifyAs l (leNat [lo, hi])).mountProgress
  | _ => p

/-- A line read is handed to its requester, which judges it (R62). -/
def Part.deliverLine (rq : Requester) (l : Lane) (bytes : List Byte) (p : Part) : Part :=
  match rq with
  | .mount => p.mountLine l bytes
  | .record => p.getLine bytes
  | .scan => p.scanLine bytes
  | .reclaim => p.walkLine bytes
  | .head | .erase => p

/-- A READ LINE ends with a line; a result whose requester discards it goes nowhere (R62, R73). -/
def Part.readEnds (l : Lane) (bytes : List Byte) (p : Part) : Part :=
  match (p.lane l).inFlight with
  | some ⟨rq, .readLine _ _, _, discard⟩ => if discard then p.landed l else (p.landed l).deliverLine rq l bytes
  | _ => p

/-- The outcome a status byte carries: 00hex is pass (R59). -/
def passStatus (status : Byte) : Bool := status == 0

/-- A PROGRAM LINE ends with its status (R63). -/
def Part.programLineEnds (l : Lane) (status : Byte) (p : Part) : Part :=
  match (p.lane l).inFlight with
  | some ⟨_, .programLine _ _ _, _, _⟩ => (p.landed l).programEnds (if passStatus status then .pass else .fail)
  | _ => p

/-- An ERASE SEGMENT ends with its status (R45, R64). -/
def Part.eraseLineEnds (l : Lane) (status : Byte) (p : Part) : Part :=
  match (p.lane l).inFlight with
  | some ⟨_, .eraseSegment i, _, _⟩ => (p.landed l).eraseEnds ⟨l, i⟩ (passStatus status)
  | _ => p

/-- The time limit of the operation in flight expires: an IDENTIFY leaves the lane ABSENT, any other takes it OFFLINE (R58, R68,
R69). -/
def Part.limitExpires (l : Lane) (p : Part) : Part :=
  match (p.lane l).inFlight with
  | none => p
  | some ⟨_, .identify, _, _⟩ => (p.becomeAbsent l).mountProgress
  | some _ => p.loseLanes [l] .laneTimeout

end Sys2Proof.Machine
end

