-- ==== Sys2Proof/Machine/UnitOrders.lean ====
section
/-! DEFINITION. The RECLAIM order in the reclaim unit, the FORMAT order in the format control (R158, R160, R161, R55), and the
units the dispatcher routes the kinds to (R104). -/

namespace Sys2Proof.Machine

/-! ## Routing (R104) -/

/-- The record unit is free. -/
def Part.recordFree (p : Part) : Bool := p.record.isNone

/-- The scan unit is free. -/
def Part.scanFree (p : Part) : Bool := p.scan.isNone

/-- The reclaim unit is free: no RECLAIM order is attached. -/
def Part.reclaimFree (p : Part) : Bool := p.reclaim.attached.isNone

/-- The format control is free. -/
def Part.formatFree (p : Part) : Bool := p.recordFree && p.scanFree && p.reclaimFree

/-- A kind byte outside 1 to 7 (R105). -/
def unknownKind (k : Byte) : Bool := !(decide (1 ≤ k.toNat) && decide (k.toNat ≤ 7))

/-! ## RECLAIM (R158) -/

/-- The order is attached to a tail (R158). -/
def Part.attach (n : SlotNo) (a : SegAddr) (p : Part) : Part := { p with reclaim.attached := some ⟨n, a, none⟩ }

/-- The unit, IDLE, evaluates the chain for the order (R158). -/
def Part.evaluateForOrder (n : SlotNo) (p : Part) : Part :=
  match p.decideChain with
  | .idle => (p.toReclaim .idle).complete n okResult
  | .stalled => ((p.toReclaim .stalled).raise .saturated).complete n (faultResult .saturated)
  | .halt => p.haltReclaim.complete n (faultResult .reclaimHalted)
  | .take a => ((p.takeTail a .order).attach n a).walk

/-- A RECLAIM handed to the reclaim unit (R158). -/
def Part.takeReclaim (n : SlotNo) (_f : OrderFields) (p : Part) : Part :=
  match p.reclaim.state with
  | .idle => p.evaluateForOrder n
  | .copying =>
    match p.reclaim.tail with
    | some t => p.attach n t
    | none => p.evaluateForOrder n
  | .stalled => p.complete n (faultResult .saturated)
  | .halted => p.complete n (faultResult .reclaimHalted)

/-! ## FORMAT (R160, R161, R55) -/

/-- The format control suspends the reclaim unit (R160). -/
def Part.suspendReclaim (p : Part) : Part :=
  let q := p.dropWalk.toReclaim .idle
  { q with reclaim.latchedTrigger := false, reclaim.releasePending := false, reclaim.suspended := true }

/-- A FORMAT handed to the format control (R160). -/
def Part.takeFormat (n : SlotNo) (_f : OrderFields) (p : Part) : Part :=
  if p.seen.winh then p.complete n (faultResult .writeInhibited)
  else { p.suspendReclaim with format := some ⟨n, false, [], 0⟩ }

/-- A segment's entry once FORMAT has taken the table (R55). -/
def SegEntry.formatted (present : Bool) (e : SegEntry) : SegEntry :=
  match e.state with
  | .unswept | .free | .eraseWait => if present then { e with state := .eraseWait, claimed := 0 } else { e with claimed := 0 }
  | .head | .closed | .reclaiming => { e with state := .eraseWait, claimed := 0 }
  | .opening | .erasing | .bad => { e with claimed := 0 }

/-- The mount state FORMAT sets (R161). -/
def Part.formatState (p : Part) : MountState :=
  if p.anyOffline then .degraded else if p.anyPresent then .mounted else p.mount.state

/-- The segments FORMAT waits on (R161). -/
def Part.formatSet (p : Part) : List SegAddr :=
  (p.entries.filter fun x => (x.2.state == .eraseWait || x.2.state == .erasing) && p.present x.1.lane).map (·.1)

/-- The tables as FORMAT leaves them (R33, R55, R161). -/
def Part.formatTables (p : Part) : Part :=
  let q := p.mapSegs fun a e => e.formatted (p.present a.lane)
  { q with
    dir := [], lastHeadLane := 3, head.seqCounter := 1, head.epochCounter := 1, head.recordsInHead := 0,
    mount.state := p.formatState, mount.step := .ended }

/-- The format control takes the segment table once no append is in progress; with nothing to wait on the order completes in the
same act (R160, R161, R162). -/
def Part.takeTable (p : Part) : Part :=
  match p.format with
  | none => p
  | some job =>
    if job.taken || p.head.append.isSome then p
    else
      let q := p.formatTables
      let job' : FormatJob := { job with taken := true, waitSet := q.formatSet }
      if job'.waitSet.isEmpty then q.endFormat job' else { q with format := some job' }

end Sys2Proof.Machine
end

