-- ==== Sys2Proof/Machine/BusCommands.lean ====
section
/-! DEFINITION. The meanings of the bus port's commands: register and exchange memory accesses, posting, TAKE, notices and serial
framing. -/

namespace Sys2Proof.Machine

/-- REGISTER_WRITE (R81, R77). -/
def execRegisterWrite (r : PlainReg) (d : Word) (s : State) : Host.Outcome State Fault Refusal :=
  run (Part.writeAccess (regOfPlain r) d (Part.storeRegister r)) s

/-- LOW_BYTE_WRITE: the byte goes to the write holding byte (R79). -/
def execLowByteWrite (_r : ByteReg) (b : Byte) (s : State) : Host.Outcome State Fault Refusal :=
  run (fun p => if p.served && p.busMode == .byte8 then { p with bus.writeHold := b } else p) s

/-- LOW_BYTE_READ (R79). -/
def execLowByteRead (r : ByteReg) (s : State) : Host.Outcome State Fault Refusal :=
  run (fun p => if p.busMode == .byte8 then (if p.served then p.lowByteOf (regOfByte r) else p.unservedRead) else p) s

/-- DATA_READ (R82). -/
def execDataRead (s : State) : Host.Outcome State Fault Refusal := run (Part.readAccess .data Part.readData) s

/-- DATA_WRITE (R83). In the 8-bit mode a DATA access uses no holding byte (R79). -/
def execDataWrite (d : Word) (s : State) : Host.Outcome State Fault Refusal :=
  run (fun p => if p.served && p.busMode == .byte8 then p.writeData d else p.writeAccess .data d Part.writeData) s

/-- The order block takes a configuration word; the third brings the low-water comparison (R102, R51). -/
def Part.takeConfig (v : Word) (p : Part) : Part :=
  let q := p.takeWord v
  if q.orders.intake = .ended then q.compareLow.refreshErase else q

/-- The order block takes a POST write: a configuration word or a post (R98). -/
def Part.takePost (v : Word) (p : Part) : Part := if p.orders.intake = .ended then p.postSlot v else p.takeConfig v

/-- POST (R98). -/
def execPost (d : Word) (s : State) : Host.Outcome State Fault Refusal :=
  run (Part.writeAccess .post d Part.takePost) s

/-- TAKE (R109). -/
def execTake (s : State) : Host.Outcome State Fault Refusal := run (Part.readAccess .take Part.readTake) s

/-- NOTICE_WRITE (R90). -/
def execNoticeWrite (d : Word) (s : State) : Host.Outcome State Fault Refusal :=
  run (Part.writeAccess .notice d Part.writeNotice) s

/-- TRANSACTION_START (R80). -/
def execTransactionStart (s : State) : Host.Outcome State Fault Refusal := run Part.beginTransaction s

/-- START_BYTE (R80). -/
def execStartByte (b : Byte) (s : State) : Host.Outcome State Fault Refusal := run (Part.takeStart b) s

/-- TRANSACTION_END (R80). What SDO shows afterwards is not stated: dataOut keeps the last value (log 40). It ends the transaction
at once also with the clock stopped in ACTIVE, HOLD or BRACE, where R184 has every block stand (log 45). -/
def execTransactionEnd (s : State) : Host.Outcome State Fault Refusal :=
  run (fun p => { p with bus.serial := .idle }) s

end Sys2Proof.Machine
end

