-- ==== Sys2Proof/Machine/ControlCommands.lean ====
section
/-! DEFINITION. The meanings of the CONTROL rows. Each is one CONTROL write of all four fields; the rows differ in the order in
which the fields reach their owners, which R88 leaves open (log 8). With CLEAR and CUT both 1, R88 gives an outcome for either
order: under the row CLEAR the clear takes effect before the cut where it may, under the other three the cut comes first (log 43). -/

namespace Sys2Proof.Machine

/-- HOLD: the levels, the clear, the cut (R178, R88). -/
def execHold (d : Word) (s : State) : Host.Outcome State Fault Refusal :=
  run (Part.writeAccess .control d fun v p => (((p.controlLevels v).controlClear v).controlCut v).refreshErase) s

/-- PARK: the levels, the cut, the clear (R178, R88). -/
def execPark (d : Word) (s : State) : Host.Outcome State Fault Refusal :=
  run (Part.writeAccess .control d fun v p => (((p.controlLevels v).controlCut v).controlClear v).refreshErase) s

/-- CLEAR: the clear, the levels, the cut (R185, R88). With CUT 1 too the clear takes effect before the cut where it may, and the cut
then finds no scan (R88; log 43). -/
def execClear (d : Word) (s : State) : Host.Outcome State Fault Refusal :=
  run (Part.writeAccess .control d fun v p =>
    ((((p.controlClear v).controlLevels v).clearBeforeCut v).controlCut v).refreshErase) s

/-- CUT: the cut, the levels, the clear (R146, R88). -/
def execCut (d : Word) (s : State) : Host.Outcome State Fault Refusal :=
  run (Part.writeAccess .control d fun v p => (((p.controlCut v).controlLevels v).controlClear v).refreshErase) s

end Sys2Proof.Machine
end

