-- ==== Sys2Proof/Machine/LaneCommands.lean ====
section
/-! DEFINITION. The meanings of the lanes' commands: grants, the ends of the four operations, and expired time limits. -/

namespace Sys2Proof.Machine

/-- LANE_GRANT (R66). -/
def execLaneGrant (l : Lane) (s : State) : Host.Outcome State Fault Refusal := run (Part.act (Part.grantLane l)) s

/-- IDENTIFY_END (R58). -/
def execIdentifyEnd (l : Lane) (lo hi : Byte) (s : State) : Host.Outcome State Fault Refusal :=
  run (Part.act (Part.identifyEnds l lo hi)) s

/-- READ_LINE_END (R62); a response of other than 256 bytes is refused (R59; log 28). -/
def execReadLineEnd (l : Lane) (bytes : List Byte) (s : State) : Host.Outcome State Fault Refusal :=
  if bytes.length = lineLength then run (Part.act (Part.readEnds l bytes)) s else .refused (.illFormed "READ_LINE_END")

/-- PROGRAM_LINE_END (R63). -/
def execProgramLineEnd (l : Lane) (status : Byte) (s : State) : Host.Outcome State Fault Refusal :=
  run (Part.act (Part.programLineEnds l status)) s

/-- ERASE_SEGMENT_END (R45). -/
def execEraseSegmentEnd (l : Lane) (status : Byte) (s : State) : Host.Outcome State Fault Refusal :=
  run (Part.act (Part.eraseLineEnds l status)) s

/-- TIME_LIMIT_EXPIRY (R68). -/
def execTimeLimitExpiry (l : Lane) (s : State) : Host.Outcome State Fault Refusal :=
  run (Part.act (Part.limitExpires l)) s

end Sys2Proof.Machine
end

