-- ==== Sys2Proof/Machine/OrderCommands.lean ====
section
/-! DEFINITION. The meanings of the dispatch rows, one for each kind, and of the acts of the head writer's arbiter, the format
control and the scan unit. -/

namespace Sys2Proof.Machine

/-- PUT (R116). -/
def execPut (s : State) : Host.Outcome State Fault Refusal :=
  run (Part.act (Part.dispatch (· == 1) Part.recordFree Part.takePut)) s

/-- GET (R119). -/
def execGet (s : State) : Host.Outcome State Fault Refusal :=
  run (Part.act (Part.dispatch (· == 2) Part.recordFree Part.takeGet)) s

/-- DROP (R117). -/
def execDrop (s : State) : Host.Outcome State Fault Refusal :=
  run (Part.act (Part.dispatch (· == 3) Part.recordFree Part.takeDrop)) s

/-- SCAN (R137). -/
def execScan (s : State) : Host.Outcome State Fault Refusal :=
  run (Part.act (Part.dispatch (· == 4) Part.scanFree Part.takeScan)) s

/-- RECLAIM (R158). -/
def execReclaim (s : State) : Host.Outcome State Fault Refusal :=
  run (Part.act (Part.dispatch (· == 5) Part.reclaimFree Part.takeReclaim)) s

/-- FORMAT (R160). -/
def execFormat (s : State) : Host.Outcome State Fault Refusal :=
  run (Part.act (Part.dispatch (· == 6) Part.formatFree Part.takeFormat)) s

/-- SURVEY (R122). -/
def execSurvey (s : State) : Host.Outcome State Fault Refusal :=
  run (Part.act (Part.dispatch (· == 7) Part.recordFree Part.takeSurvey)) s

/-- BAD_KIND: no unit takes it, and none has to be free (R104, R105). -/
def execBadKind (s : State) : Host.Outcome State Fault Refusal :=
  run (Part.act (Part.dispatch unknownKind (fun _ => true) (fun _ _ p => p))) s

/-- ORDER_APPEND_GRANT (R125). -/
def execOrderAppendGrant (s : State) : Host.Outcome State Fault Refusal := run (Part.act Part.grantOrder) s

/-- COPY_GRANT (R126). -/
def execCopyGrant (s : State) : Host.Outcome State Fault Refusal := run (Part.act Part.grantCopy) s

/-- FORMAT_TAKE_TABLE (R161). -/
def execFormatTakeTable (s : State) : Host.Outcome State Fault Refusal := run (Part.act Part.takeTable) s

/-- ENTRY_BOUNDARY (R138). -/
def execEntryBoundary (s : State) : Host.Outcome State Fault Refusal := run (Part.act Part.scanBoundary) s

end Sys2Proof.Machine
end

