-- ==== Sys2Proof/Machine/PowerCommands.lean ====
section
/-! DEFINITION. The meanings of the reset commands, the input pins' commands, the reference clock's and power control's. -/

namespace Sys2Proof.Machine

/-- RESET_ASSERT (R186). -/
def execResetAssert (s : State) : Host.Outcome State Fault Refusal := run Part.assertReset s

/-- RESET_RELEASE (R186). -/
def execResetRelease (straps : Straps) (s : State) : Host.Outcome State Fault Refusal := run (Part.releaseReset straps) s

/-- ZEROING_END (R86). -/
def execZeroingEnd (s : State) : Host.Outcome State Fault Refusal := run (Part.act Part.endZeroing) s

/-- PWARN_ASSERT (R179). -/
def execPwarnAssert (s : State) : Host.Outcome State Fault Refusal :=
  run (Part.pinEvent (fun p => { p with pins.pwarn := true }) (Part.seePwarn true)) s

/-- PWARN_DEASSERT (R179). -/
def execPwarnDeassert (s : State) : Host.Outcome State Fault Refusal :=
  run (Part.pinEvent (fun p => { p with pins.pwarn := false }) (Part.seePwarn false)) s

/-- WINH_ASSERT (R135). -/
def execWinhAssert (s : State) : Host.Outcome State Fault Refusal :=
  run (Part.pinEvent (fun p => { p with pins.winh := true }) (Part.seeWinh true)) s

/-- WINH_DEASSERT (R44). -/
def execWinhDeassert (s : State) : Host.Outcome State Fault Refusal :=
  run (Part.pinEvent (fun p => { p with pins.winh := false }) (Part.seeWinh false)) s

/-- STORE_GOOD_RISE (R165). -/
def execStoreGoodRise (s : State) : Host.Outcome State Fault Refusal :=
  run (Part.pinEvent (fun p => { p with pins.storeGood := true }) (Part.seeStoreGood true)) s

/-- STORE_GOOD_FALL (R70). -/
def execStoreGoodFall (s : State) : Host.Outcome State Fault Refusal :=
  run (Part.pinEvent (fun p => { p with pins.storeGood := false }) (Part.seeStoreGood false)) s

/-- STORE_GOOD_SETTLED (R165). -/
def execStoreGoodSettled (s : State) : Host.Outcome State Fault Refusal :=
  run (Part.act fun p => if p.mount.settle then p.startMount else p) s

/-- CLEAR_TAKES_EFFECT (R185). -/
def execClearTakesEffect (s : State) : Host.Outcome State Fault Refusal := run (Part.act Part.takeClear) s

/-- QUIET_REACHED (R181). -/
def execQuietReached (s : State) : Host.Outcome State Fault Refusal := run (Part.act Part.watchQuiet) s

/-- WAKE_SETTLED (R183). -/
def execWakeSettled (s : State) : Host.Outcome State Fault Refusal := run (Part.act Part.wakeSettles) s

/-- WAKE_LIMIT (R183). -/
def execWakeLimit (s : State) : Host.Outcome State Fault Refusal := run (Part.act Part.wakeExpires) s

/-- CLOCK_STOP (R184). -/
def execClockStop (s : State) : Host.Outcome State Fault Refusal := run Part.stopClock s

/-- CLOCK_RETURN (R184). -/
def execClockReturn (s : State) : Host.Outcome State Fault Refusal := run Part.returnClock s

/-- RETURN_COUNT_END (R184). -/
def execReturnCountEnd (s : State) : Host.Outcome State Fault Refusal := run Part.returnEnds s

end Sys2Proof.Machine
end

