-- ==== Sys2Proof/Machine/Dispatch.lean ====
section
/-! DEFINITION. One arm per command: its meaning. -/

namespace Sys2Proof.Machine

/-- A command's effect on everything but the queue. -/
def exec (i : Instr) (s : State) : Host.Outcome State Fault Refusal :=
  match i with
  | .resetAssert => Sys2Proof.Machine.execResetAssert s
  | .resetRelease straps => Sys2Proof.Machine.execResetRelease straps s
  | .zeroingEnd => Sys2Proof.Machine.execZeroingEnd s
  | .registerWrite r d => Sys2Proof.Machine.execRegisterWrite r d s
  | .lowByteWrite r b => Sys2Proof.Machine.execLowByteWrite r b s
  | .dataRead => Sys2Proof.Machine.execDataRead s
  | .dataWrite d => Sys2Proof.Machine.execDataWrite d s
  | .post d => Sys2Proof.Machine.execPost d s
  | .take => Sys2Proof.Machine.execTake s
  | .hold d => Sys2Proof.Machine.execHold d s
  | .park d => Sys2Proof.Machine.execPark d s
  | .clear d => Sys2Proof.Machine.execClear d s
  | .cut d => Sys2Proof.Machine.execCut d s
  | .noticeWrite d => Sys2Proof.Machine.execNoticeWrite d s
  | .clearTakesEffect => Sys2Proof.Machine.execClearTakesEffect s
  | .pwarnAssert => Sys2Proof.Machine.execPwarnAssert s
  | .pwarnDeassert => Sys2Proof.Machine.execPwarnDeassert s
  | .winhAssert => Sys2Proof.Machine.execWinhAssert s
  | .winhDeassert => Sys2Proof.Machine.execWinhDeassert s
  | .storeGoodRise => Sys2Proof.Machine.execStoreGoodRise s
  | .storeGoodFall => Sys2Proof.Machine.execStoreGoodFall s
  | .storeGoodSettled => Sys2Proof.Machine.execStoreGoodSettled s
  | .laneGrant lane => Sys2Proof.Machine.execLaneGrant lane s
  | .identifyEnd lane lo hi => Sys2Proof.Machine.execIdentifyEnd lane lo hi s
  | .readLineEnd lane bytes => Sys2Proof.Machine.execReadLineEnd lane bytes s
  | .programLineEnd lane status => Sys2Proof.Machine.execProgramLineEnd lane status s
  | .eraseSegmentEnd lane status => Sys2Proof.Machine.execEraseSegmentEnd lane status s
  | .timeLimitExpiry lane => Sys2Proof.Machine.execTimeLimitExpiry lane s
  | .put => Sys2Proof.Machine.execPut s
  | .get => Sys2Proof.Machine.execGet s
  | .drop => Sys2Proof.Machine.execDrop s
  | .scan => Sys2Proof.Machine.execScan s
  | .reclaim => Sys2Proof.Machine.execReclaim s
  | .format => Sys2Proof.Machine.execFormat s
  | .survey => Sys2Proof.Machine.execSurvey s
  | .badKind => Sys2Proof.Machine.execBadKind s
  | .orderAppendGrant => Sys2Proof.Machine.execOrderAppendGrant s
  | .copyGrant => Sys2Proof.Machine.execCopyGrant s
  | .formatTakeTable => Sys2Proof.Machine.execFormatTakeTable s
  | .quietReached => Sys2Proof.Machine.execQuietReached s
  | .wakeSettled => Sys2Proof.Machine.execWakeSettled s
  | .wakeLimit => Sys2Proof.Machine.execWakeLimit s
  | .clockStop => Sys2Proof.Machine.execClockStop s
  | .clockReturn => Sys2Proof.Machine.execClockReturn s
  | .returnCountEnd => Sys2Proof.Machine.execReturnCountEnd s
  | .entryBoundary => Sys2Proof.Machine.execEntryBoundary s
  | .lowByteRead r => Sys2Proof.Machine.execLowByteRead r s
  | .transactionStart => Sys2Proof.Machine.execTransactionStart s
  | .startByte b => Sys2Proof.Machine.execStartByte b s
  | .transactionEnd => Sys2Proof.Machine.execTransactionEnd s

end Sys2Proof.Machine
end

