-- ==== Sys2Proof/Safety.lean ====
section
/-! DEFINITION. What the claims speak of: the invariants of the part, and the read of one byte. -/

namespace Sys2Proof.Machine

/-- One byte of exchange memory. -/
def State.byte (s : State) (a : Nat) : Byte := Mem.read s.part.mem a

/-- The directory's keys rise strictly: ascending order, no key twice (R16). -/
def dirSorted : List DirEntry → Bool
  | [] => true
  | [_] => true
  | x :: y :: rest => decide (x.key < y.key) && dirSorted (y :: rest)

/-- The invariant of the stored data: exchange memory is in its canonical form, the post queue holds at most 16 numbers (R96),
the DONE flag is never held as a sticky flag (R89), and the directory is in key order (R16). -/
def Part.Sound (p : Part) : Prop :=
  Mem.wf p.mem = true ∧ p.orders.postQueue.length ≤ queueCapacity ∧ p.bus.sticky &&& 1 = 0 ∧ dirSorted p.dir = true

/-- The slot numbers in units: the record unit, the scan unit, the reclaim unit's attached order and the format control (R96). -/
def Part.unitSlots (p : Part) : List SlotNo :=
  (p.record.map (·.slot)).toList ++ (p.scan.map (·.slot)).toList ++ (p.reclaim.attached.map (·.slot)).toList
    ++ (p.format.map (·.slot)).toList

/-- The entry R96's table gives a slot number. -/
def Part.slotEntryDue (p : Part) (n : SlotNo) : SlotEntry :=
  if n ∈ p.orders.postQueue then ⟨true, .queued⟩
  else if n ∈ p.unitSlots then ⟨true, .running⟩
  else if n ∈ p.orders.doneList then ⟨true, .done⟩
  else ⟨false, .idle⟩

/-- The slot rule: a slot number is in at most one collection, and its entry is the one its collection gives (R96). -/
def Part.SlotsKept (p : Part) : Prop :=
  (p.orders.postQueue ++ p.unitSlots ++ p.orders.doneList).Nodup ∧ ∀ n, p.slot n = p.slotEntryDue n

/-- The state with another part; its queue as it was. -/
def State.withPart (s : State) (p : Part) : State := { s with part := p }

/-- One byte of a slot. -/
def State.slotByte (s : State) (n : SlotNo) (k : Nat) : Byte := s.byte (slotBase n + k)

/-- The four rows that are a CONTROL write of the same value (log 8). -/
def controlRows (d : Word) : List Instr := [.hold d, .park d, .clear d, .cut d]

/-- No lane has an operation in flight. -/
def Part.lanesIdle (p : Part) : Bool := p.lanes.toList.all (·.inFlight.isNone)

/-- The segment whose readers count a record order holds (R53). -/
def RecordStep.holds : RecordStep → Option SegAddr
  | .waiting => none
  | .reading g => some g.holds

/-- How many of a segment's readers the record unit's GET and the scan unit's entry in hand hold (R53). -/
def Part.heldReaders (p : Part) (a : SegAddr) : Nat :=
  (if (p.record.bind fun o => o.step.holds) = some a then 1 else 0)
    + (if ((p.scan.bind (·.inHand)).map (·.holds)) = some a then 1 else 0)

/-- A record's header, read from its first line, agrees with an entry and with its segment's epoch; the COPIED flag is not compared
(R120, R140). -/
def recordAgrees (e : DirEntry) (epoch : Long) (bytes : List Byte) : Prop :=
  let h := readHeader bytes
  h.kind = 1 ∧ h.flags &&& 0xFE = 0 ∧ h.key = e.key ∧ h.sequence = e.sequence ∧ h.length = e.length ∧ h.tag = epoch.setWidth 16

/-- Line `j` of a record of these bytes: 256 of them, FFhex after the last (R7). -/
def recordSlice (record : List Byte) (j : Nat) : List Byte :=
  (record.drop (256 * j)).take 256 ++ List.replicate (256 - ((record.drop (256 * j)).take 256).length) 0xFF

/-- The figure of `n` bytes at an offset of the survey record (R95). -/
def Part.surveyField (p : Part) (offset n : Nat) : Nat := leNat ((p.surveyRecord.drop offset).take n)

/-- The rows that dispatch the head of the post queue. -/
def dispatchRows : List Instr := [.put, .get, .drop, .scan, .reclaim, .format, .survey, .badKind]

/-- The rows that are events inside the part: neither RESET_N, the clock, an input pin, an access of the host nor the return count
(R184). -/
def isInside : Instr → Bool
  | .zeroingEnd | .clearTakesEffect | .storeGoodSettled | .laneGrant _ | .identifyEnd _ _ _ | .readLineEnd _ _
  | .programLineEnd _ _ | .eraseSegmentEnd _ _ | .timeLimitExpiry _ | .put | .get | .drop | .scan | .reclaim | .format | .survey
  | .badKind | .orderAppendGrant | .copyGrant | .formatTakeTable | .quietReached | .wakeSettled | .wakeLimit | .entryBoundary => true
  | .resetAssert | .resetRelease _ | .registerWrite _ _ | .lowByteWrite _ _ | .dataRead | .dataWrite _ | .post _ | .take | .hold _
  | .park _ | .clear _ | .cut _ | .noticeWrite _ | .pwarnAssert | .pwarnDeassert | .winhAssert | .winhDeassert | .storeGoodRise
  | .storeGoodFall | .clockStop | .clockReturn | .returnCountEnd | .lowByteRead _ | .transactionStart | .startByte _
  | .transactionEnd => false

/-- A CONTROL write with CLEAR and CUT 0. -/
def levelsOnly (v : Word) : Prop := v.getLsbD 2 = false ∧ v.getLsbD 3 = false

end Sys2Proof.Machine
end

