-- ==== Sys2Proof/Certificates/Slice0/Obligations.lean ====
section
/-! DEFINITION. The statements. Each is about every state and every operand that meets its hypotheses. -/

open Sys2Proof Sys2Proof.Machine

/-! ## The machine -/

/-- A step takes the command at the front of the queue and runs it on the state with the rest of the queue. With nothing
waiting the part idles. The model's choice (log 2): the spec gives no tick. -/
def Obligations.StepTakesFrontOrIdles : Prop :=
  (∀ (c : Instr) (rest : List Instr) (s : State),
    step { s with pending := c :: rest } = exec c { s with pending := rest })
  ∧ (∀ s : State, s.pending = [] → step s = .next s)

/-- Every well-formed command answers a next state with the queue as it was; READ_LINE_END with other than the 256 bytes of R59's
frame is refused by name. That the queue is apart from a command's effect is the model's construction (log 1, log 28). -/
def Obligations.EveryCommandAnswers : Prop :=
  (∀ (c : Instr) (s : State), c.wf = true → ∃ t, exec c s = .next t ∧ t.pending = s.pending)
    ∧ ∀ (l : Lane) (bytes : List Byte) (s : State), bytes.length ≠ 256 →
        exec (.readLineEnd l bytes) s = .refused (.illFormed "READ_LINE_END")

/-- The invariants hold right after reset. -/
def Obligations.ResetMeetsInvariants : Prop := State.reset.part.Sound ∧ State.reset.part.SlotsKept

/-- Every step keeps the invariant of the stored data: exchange memory in its canonical form, at most 16 numbers in the post
queue (R96), DONE never a sticky flag (R89), the directory in ascending key order with no key twice (R16). -/
def Obligations.StepKeepsSound : Prop := ∀ s t : State, s.part.Sound → step s = .next t → t.part.Sound

/-- Every step keeps the slot rule of R96: a slot number is in at most one of the post queue, the units and the done list, and
its held field and phase are the ones R96's table gives for where it is. -/
def Obligations.StepKeepsSlots : Prop := ∀ s t : State, s.part.SlotsKept → step s = .next t → t.part.SlotsKept

/-! ## Reset -/

/-- RESET_ASSERT: the port serves nothing, LANE_PWR is asserted, every operation in flight is abandoned with its link released,
and nothing of the interrupted work is kept: queue, units, head writer, directory and segment table are as after reset. That the
blocks have their reset values from the fall on is the model's choice (log 31), as is that exchange memory keeps what it held
until the zeroing ends (log 6). -/
def Obligations.ResetAssertHoldsReset : Prop :=
  ∀ s : State, ∃ t, exec .resetAssert s = .next t
    ∧ t.part.power.resetLow = true ∧ t.part.served = false ∧ t.part.lanePwr = true
    ∧ t.part.lanes = Quad.all LaneRec.reset ∧ t.part.orders.postQueue = [] ∧ t.part.orders.doneList = []
    ∧ t.part.unitSlots = [] ∧ t.part.head = Head.reset ∧ t.part.dir = [] ∧ t.part.segs = Quad.all []
    ∧ t.part.reclaim = Reclaim.reset ∧ t.part.mount = Mount.reset ∧ t.part.bus.sticky = 0 ∧ t.part.bus.mask = 0
    ∧ t.part.pins = s.part.pins ∧ t.part.mem = s.part.mem ∧ t.pending = s.pending

/-- RESET_RELEASE with PWARN, WINH and STORE_GOOD deasserted and the clock running: the straps are latched, the zeroing has begun,
and every block has the values its chapter gives for full reset (R76, R92, R101, R114, R123, R149, R164, R177, R186). With any of
the inputs asserted they are seen as they stand (log 11): a power warning brings the state at once to BRACE, with nothing in
flight quiet too and so BRACED raised, STORE_GOOD starts no count before the zeroing has ended (R165, R179, R181, R186). With the
clock stopped the inputs are not seen; with RESET_N high a release changes nothing (log 1). What the release leaves, block by
block: pointer 0000hex, window 0000hex to 7FFFhex, latches 0, levels 0, flags clear, mask 00hex (R92); no slot held, queue and
done list empty, last post outcome NONE (R114); the configuration words of the source, or 0 with intake begun (R101); counters 0,
last granted the reclaim unit (R123); lanes UNKNOWN, count 0, last granted the segment table (R57); last head lane 3 (R49);
reclaim IDLE (R149); mount WAITING (R164); ACTIVE (R177). The model's own in the first clause: the data lines and the links not
driven (log 29), a serial transaction under way ignored to its end (log 12), exchange memory kept until the zeroing ends (log 6),
quiet not noticed (log 34), the return count not running (log 4). -/
def Obligations.FullReset : Prop :=
  (∀ (s : State) (st : Straps),
    s.part.power.resetLow = true → s.part.power.clockRunning = true → s.part.pins = ⟨false, false, false⟩ →
    exec (.resetRelease st) s = .next (s.withPart
      ({ Part.reset st with mem := s.part.mem, freeIndex := s.part.freeIndex, bus.serial := s.part.bus.serial.afterReset })))
  ∧ (∀ (s : State) (st : Straps),
    let fresh : Part := { Part.reset st with
      pins := s.part.pins, mem := s.part.mem, freeIndex := s.part.freeIndex, bus.serial := s.part.bus.serial.afterReset }
    let warned := s.part.pins.pwarn
    (s.part.power.resetLow = true → s.part.power.clockRunning = true →
      exec (.resetRelease st) s = .next (s.withPart fresh.seeInputs.refreshErase)
      ∧ exec (.resetRelease st) s = .next (s.withPart { fresh with
          seen := s.part.pins, power.state := if warned then .brace else .active, power.quietSeen := warned,
          bus.sticky := if warned then 0x40 else 0 }))
    ∧ (s.part.power.resetLow = true → s.part.power.clockRunning = false →
      exec (.resetRelease st) s = .next (s.withPart { fresh with power.clockRunning := false }))
    ∧ (s.part.power.resetLow = false → exec (.resetRelease st) s = .next s))
  ∧ (∀ st : Straps,
    let p := Part.reset st
    p.bus.pointer = 0 ∧ p.bus.winStart = 0 ∧ p.bus.winEnd = 0x7FFF ∧ p.bus.readLatch = 0 ∧ p.bus.writeHold = 0
      ∧ p.bus.readCapture = 0 ∧ p.bus.holdLevel = false ∧ p.bus.parkLevel = false ∧ p.noticeFlags = 0 ∧ p.bus.mask = 0
      ∧ p.attn = false ∧ p.bus.busSel = st.busSel ∧ p.bus.byteOrd = st.byteOrd ∧ p.bus.sid = st.sid ∧ p.bus.cfgSel = st.cfgSel
      ∧ (∀ n, p.slot n = ⟨false, .idle⟩) ∧ p.orders.postQueue = [] ∧ p.orders.doneList = [] ∧ p.orders.lastPost = .none
      ∧ (p.orders.intake = .ended ↔ st.cfgSel ≠ 3)
      ∧ (st.cfgSel = 0 → p.orders.lowMark = 4 ∧ p.orders.highMark = 8 ∧ p.orders.postMark = 12)
      ∧ (st.cfgSel = 1 → p.orders.lowMark = 8 ∧ p.orders.highMark = 16 ∧ p.orders.postMark = 12)
      ∧ (st.cfgSel = 2 → p.orders.lowMark = 2 ∧ p.orders.highMark = 4 ∧ p.orders.postMark = 8)
      ∧ (st.cfgSel = 3 → p.orders.lowMark = 0 ∧ p.orders.highMark = 0 ∧ p.orders.postMark = 0)
      ∧ p.head.seqCounter = 0 ∧ p.head.epochCounter = 0 ∧ p.head.recordsInHead = 0 ∧ p.head.append = none
      ∧ p.head.lastGranted = .reclaimUnit ∧ p.dir = [] ∧ p.entries = [] ∧ p.lastHeadLane = 3
      ∧ (∀ l, (p.lane l).state = .unknown ∧ (p.lane l).count = 0 ∧ (p.lane l).inFlight = none
          ∧ (p.lane l).waiting = .empty ∧ (p.lane l).lastGranted = .erase)
      ∧ p.reclaim.state = .idle ∧ p.mount.state = .waiting ∧ p.mount.step = .settle ∧ p.mount.outcome = 0
      ∧ p.power.state = .active ∧ p.power.parkPending = false ∧ p.power.clearPending = false ∧ p.power.wake = none)

/-- ZEROING_END: every byte of exchange memory reads 00hex and the port serves; STORE_GOOD already asserted counts from here
(R86, R165). Stated for a part that mount has not left WAITING in, as the zeroing always finds it. -/
def Obligations.ZeroingEndServes : Prop :=
  ∀ s : State, s.part.live = true → s.part.zeroing = true → s.part.mount.state = .waiting → s.part.power.state ≠ .park →
    ∃ t, exec .zeroingEnd s = .next t ∧ (∀ a, t.byte a = 0) ∧ t.part.served = true
      ∧ t.part.mount.settle = s.part.seen.storeGood ∧ t.part.bus = s.part.bus ∧ t.part.orders = s.part.orders
      ∧ t.part.segs = s.part.segs ∧ t.part.dir = s.part.dir ∧ t.part.head = s.part.head ∧ t.part.power = s.part.power
      ∧ t.part.reclaim = s.part.reclaim ∧ t.part.record = s.part.record ∧ t.part.scan = s.part.scan

/-! ## The bus port -/

/-- What a host read shows. The eight registers by number (R77). POINTER, WINSTART, WINEND: the fifteen bits, bit 15 reading 0.
DATA: the latch. POST: the queue count in bits 4 to 0, the last post outcome in bits 7 to 5. TAKE: the oldest done slot, or
00FFhex. STATE, by the layout of section 5.7: power state, mount state, config-wait, queue-high, the done count up to 31, the busy
units, reclaim. NOTICE: mask and flags. Queue-high is 1 exactly while intake has ended and the queue count is at or above the post
mark (R87, R88, R90, R100, R109). On the pins a served read shows the register placed under BYTEORD in the 16-bit mode; in the
8-bit mode its low half, or with A0 1 and a register other than DATA the read capture byte; on SDO the value when the transaction
names the register (R78, R79, R80). A read not served shows 0 while RESET_N is low or before the zeroing has ended, all ones in
STOPPED, and nothing in the serial mode (R86, R92, R186); that SDO is released also with the clock stopped in ACTIVE, HOLD or
BRACE is the model's choice (log 10). DATA_READ, TAKE and LOW_BYTE_READ leave just that on the pins, and an unserved LOW_BYTE_READ
changes nothing else. The registers without a row are read through pinRead (log 9). -/
def Obligations.HostReadValues : Prop :=
  ([0, 1, 2, 3, 4, 5, 6, 7].map regOfNumber = [.pointer, .data, .winStart, .winEnd, .post, .take, .control, .notice]
    ∧ [PowerState.active, .hold, .brace, .park].map PowerState.code = [0, 1, 2, 3]
    ∧ [MountState.waiting, .mounting, .mounted, .degraded, .failed].map MountState.code = [0, 1, 2, 3, 4]
    ∧ [ReclaimState.idle, .copying, .stalled, .halted].map ReclaimState.code = [0, 1, 2, 3]
    ∧ [PostOutcome.none, .accepted, .badSlot, .held, .full, .configTaken].map PostOutcome.code = [0, 1, 2, 3, 4, 5])
  ∧ (∀ p : Part,
    (p.readRegister .pointer).toNat = p.bus.pointer.toNat ∧ (p.readRegister .winStart).toNat = p.bus.winStart.toNat
      ∧ (p.readRegister .winEnd).toNat = p.bus.winEnd.toNat ∧ p.readRegister .data = p.bus.readLatch
      ∧ (p.orders.doneList = [] → p.readRegister .take = 0x00FF)
      ∧ (∀ n rest, p.orders.doneList = n :: rest → (p.readRegister .take).toNat = n.val)
      ∧ p.readRegister .notice = p.bus.mask ++ p.noticeFlags
      ∧ (p.orders.postQueue.length ≤ 16 →
          ((p.readRegister .post).extractLsb' 0 5).toNat = p.orders.postQueue.length
          ∧ ((p.readRegister .post).extractLsb' 5 3).toNat = p.orders.lastPost.code
          ∧ (p.readRegister .post).extractLsb' 8 8 = 0)
      ∧ (let v := p.readRegister .control
         (v.extractLsb' 0 2).toNat = p.power.state.code ∧ (v.extractLsb' 2 3).toNat = p.mount.state.code
          ∧ (v.getLsbD 5 = true ↔ p.orders.intake ≠ .ended) ∧ v.getLsbD 6 = p.queueHigh
          ∧ (v.extractLsb' 7 5).toNat = min 31 p.orders.doneList.length
          ∧ v.getLsbD 12 = p.record.isSome ∧ v.getLsbD 13 = p.scan.isSome
          ∧ (v.extractLsb' 14 2).toNat = p.reclaim.state.code)
      ∧ (p.queueHigh = true ↔ p.orders.intake = .ended ∧ p.orders.postMark ≤ p.orders.postQueue.length))
  ∧ (∀ (p : Part) (r : Reg) (a0 : Bool),
    (p.served = true →
      (p.busMode = .word16 → p.pinRead r a0
          = some (if p.bus.byteOrd then (p.readRegister r).rotateLeft 8 else p.readRegister r))
      ∧ (p.busMode = .byte8 → r = .data → p.pinRead r a0 = some (p.readRegister r))
      ∧ (p.busMode = .byte8 → r ≠ .data → p.pinRead r false = some (p.readRegister r &&& 0xFF)
          ∧ p.pinRead r true = some (p.bus.readCapture.setWidth 16))
      ∧ (p.busMode = .serial → p.bus.serial = .framed r true → p.pinRead r a0 = some (p.readRegister r))
      ∧ (p.busMode = .serial → p.bus.serial ≠ .framed r true → p.pinRead r a0 = none))
    ∧ (p.served = false → p.busMode = .serial → p.pinRead r a0 = none)
    ∧ (p.power.resetLow = true ∨ (p.power.state ≠ .stopped ∧ p.zeroing = true) → p.busMode ≠ .serial → p.pinRead r a0 = some 0)
    ∧ (p.power.resetLow = false → p.power.state = .stopped →
        (p.busMode = .word16 → p.pinRead r a0 = some 0xFFFF) ∧ (p.busMode = .byte8 → p.pinRead r a0 = some 0xFF)))
  ∧ (∀ (s : State) (r : ByteReg),
    (∃ t, exec .dataRead s = .next t ∧ t.part.bus.dataOut = s.part.pinRead .data false)
    ∧ (∃ t, exec .take s = .next t ∧ t.part.bus.dataOut = s.part.pinRead .take false)
    ∧ (s.part.busMode = .byte8 →
        (∃ t, exec (.lowByteRead r) s = .next t ∧ t.part.bus.dataOut = s.part.pinRead (regOfByte r) false)
        ∧ (s.part.power.resetLow = true ∨ s.part.power.state = .stopped ∨ s.part.zeroing = true →
            exec (.lowByteRead r) s = .next { s with part.bus.dataOut := s.part.pinRead (regOfByte r) false })))
  ∧ ∀ (v : Word) (i : Nat), i < 16 → (serialBits v)[i]? = some (v.getLsbD (15 - i))

/-- The bus modes of BUSSEL (R76), and the value a served write gives a register other than DATA: in the 16-bit mode D[15:0], its
halves exchanged with BYTEORD 1 (R78); in the 8-bit mode the high-byte write completed by the write holding byte (R79); in the
serial mode the value of a write transaction that names the register (R80). An access that is not served gives none. -/
def Obligations.WriteValueForms : Prop :=
  ∀ (p : Part) (r : Reg) (d : Word),
    (p.busMode = .word16 ↔ p.bus.busSel = 0 ∨ p.bus.busSel = 3) ∧ (p.busMode = .byte8 ↔ p.bus.busSel = 1)
      ∧ (p.busMode = .serial ↔ p.bus.busSel = 2)
      ∧ (p.served = false → p.writeValue r d = none)
      ∧ (p.served = true →
          (p.busMode = .word16 → p.bus.byteOrd = false → p.writeValue r d = some d)
          ∧ (p.busMode = .word16 → p.bus.byteOrd = true → p.writeValue r d = some (d.rotateLeft 8))
          ∧ (p.busMode = .byte8 → p.writeValue r d = some (d.extractLsb' 0 8 ++ p.bus.writeHold))
          ∧ (p.busMode = .serial → p.bus.serial = .framed r false → p.writeValue r d = some d)
          ∧ (p.busMode = .serial → p.bus.serial ≠ .framed r false → p.writeValue r d = none))

/-- REGISTER_WRITE: POINTER, WINSTART and WINEND take bits 14 to 0 and read back with bit 15 reading 0; a write to TAKE changes
nothing (R77, R81). Nothing else changes; in particular the read latch does not. -/
def Obligations.RegisterWriteStores : Prop :=
  ∀ (s : State) (d v : Word),
    (s.part.writeValue .pointer d = some v → ∃ t, exec (.registerWrite .pointer d) s = .next t
        ∧ t = { s with part.bus.pointer := v.extractLsb' 0 15 } ∧ t.part.readRegister .pointer = v &&& 0x7FFF)
    ∧ (s.part.writeValue .winStart d = some v → ∃ t, exec (.registerWrite .winStart d) s = .next t
        ∧ t = { s with part.bus.winStart := v.extractLsb' 0 15 } ∧ t.part.readRegister .winStart = v &&& 0x7FFF)
    ∧ (s.part.writeValue .winEnd d = some v → ∃ t, exec (.registerWrite .winEnd d) s = .next t
        ∧ t = { s with part.bus.winEnd := v.extractLsb' 0 15 } ∧ t.part.readRegister .winEnd = v &&& 0x7FFF)
    ∧ exec (.registerWrite .take d) s = .next s

/-- LOW_BYTE_WRITE in the 8-bit mode: the byte goes to the one write holding byte, whichever register is selected; no
register changes and no write effect takes place (R79). LOW_BYTE_READ in the 8-bit mode: the register's low half on D[7:0],
its high half in the read capture byte; only TAKE has a read effect, and its number is the one returned (R79, R77, R109). -/
def Obligations.LowByteAccesses : Prop :=
  (∀ (s : State) (r : ByteReg) (b : Byte), s.part.served = true → s.part.busMode = .byte8 →
    exec (.lowByteWrite r b) s = .next { s with part.bus.writeHold := b })
  ∧ (∀ (s : State) (r : ByteReg), s.part.served = true → s.part.busMode = .byte8 →
    (r ≠ .take → exec (.lowByteRead r) s = .next { s with
        part.bus.readCapture := (s.part.readRegister (regOfByte r)).extractLsb' 8 8,
        part.bus.dataOut := some (s.part.readRegister (regOfByte r) &&& 0xFF) })
    ∧ (r = .take → ∀ (n : SlotNo) (rest : List SlotNo), s.part.orders.doneList = n :: rest →
        ∃ t, exec (.lowByteRead r) s = .next t ∧ t.part.bus.dataOut = some (BitVec.ofNat 16 n.val)
          ∧ t.part.orders.doneList = rest ∧ t.part.slot n = ⟨false, .idle⟩ ∧ t.part.bus.readCapture = 0
          ∧ (∀ m, m ≠ n → t.part.slot m = s.part.slot m) ∧ t.part.mem = s.part.mem
          ∧ t.part.orders.postQueue = s.part.orders.postQueue)
    ∧ (r = .take → s.part.orders.doneList = [] → exec (.lowByteRead r) s = .next { s with
        part.bus.readCapture := 0, part.bus.dataOut := some 0xFF }))

/-- DATA_READ in the word modes (16-bit, and serial in a read transaction of DATA): the latch is returned, then reloaded with
the word at the even address of the pointer, its lower-addressed byte the low byte, then the pointer advances by 2, or to the
window start when it stands at the window end, bit 0 left out of the comparison and kept (R81, R82). Nothing else changes.
DATA_READ in the 8-bit mode: the latch is returned and reloaded with the byte at the pointer, and the pointer advances by 1,
or to the window start at the window end; the two byte latches are not used (R79, R81, R82). -/
def Obligations.DataReads : Prop :=
  (∀ s : State, s.part.served = true →
    (s.part.busMode = .word16 ∨ (s.part.busMode = .serial ∧ s.part.bus.serial = .framed .data true)) →
    let even := s.part.bus.pointer.toNat / 2 * 2
    exec .dataRead s = .next { s with
      part.bus.dataOut :=
        some (if s.part.busMode = .word16 then s.part.placed s.part.bus.readLatch else s.part.bus.readLatch),
      part.bus.readLatch := s.byte (even + 1) ++ s.byte even,
      part.bus.pointer :=
        if s.part.bus.pointer.extractLsb' 1 14 = s.part.bus.winEnd.extractLsb' 1 14 then
          s.part.bus.winStart.extractLsb' 1 14 ++ s.part.bus.pointer.extractLsb' 0 1
        else s.part.bus.pointer + 2 })
  ∧ (∀ s : State, s.part.served = true → s.part.busMode = .byte8 →
    exec .dataRead s = .next { s with
      part.bus.dataOut := some s.part.bus.readLatch,
      part.bus.readLatch := (s.byte s.part.bus.pointer.toNat).setWidth 16,
      part.bus.pointer := if s.part.bus.pointer = s.part.bus.winEnd then s.part.bus.winStart else s.part.bus.pointer + 1 })

/-- DATA_WRITE in the word modes (16-bit, and serial in a write transaction of DATA): the low byte of the value goes to the
even address of the pointer and the high byte to the next; every other byte of exchange memory is unchanged; the pointer
advances; the latch does not change (R81, R83). DATA_WRITE in the 8-bit mode: one byte at the pointer, and the pointer
advances by 1 (R79, R83). -/
def Obligations.DataWrites : Prop :=
  (∀ (s : State) (d v : Word), s.part.busMode ≠ .byte8 → s.part.writeValue .data d = some v → Mem.wf s.part.mem = true →
    let even := s.part.bus.pointer.toNat / 2 * 2
    ∃ t, exec (.dataWrite d) s = .next t
      ∧ t.byte even = v.extractLsb' 0 8 ∧ t.byte (even + 1) = v.extractLsb' 8 8
      ∧ (∀ a, a ≠ even → a ≠ even + 1 → t.byte a = s.byte a)
      ∧ t = { s with
          part.mem := t.part.mem,
          part.bus.pointer :=
            if s.part.bus.pointer.extractLsb' 1 14 = s.part.bus.winEnd.extractLsb' 1 14 then
              s.part.bus.winStart.extractLsb' 1 14 ++ s.part.bus.pointer.extractLsb' 0 1
            else s.part.bus.pointer + 2 })
  ∧ (∀ (s : State) (d : Word), s.part.served = true → s.part.busMode = .byte8 → Mem.wf s.part.mem = true →
    ∃ t, exec (.dataWrite d) s = .next t
      ∧ t.byte s.part.bus.pointer.toNat = d.extractLsb' 0 8
      ∧ (∀ a, a ≠ s.part.bus.pointer.toNat → t.byte a = s.byte a)
      ∧ t = { s with
          part.mem := t.part.mem,
          part.bus.pointer :=
            if s.part.bus.pointer = s.part.bus.winEnd then s.part.bus.winStart else s.part.bus.pointer + 1 })

/-- While the port does not serve, a write is discarded and a read has no read effect: it leaves 0 on the data lines while RESET_N
is low and before the zeroing has ended, and all ones in STOPPED; in the serial mode SDO is released (R86, R92, R186). Not serving
takes in the clock stopped in ACTIVE, HOLD or BRACE (R184), where that a write has no effect is log 1 and that SDO is released
log 10: the model's choices. The unserved LOW_BYTE_READ stands in HostReadValues. -/
def Obligations.UnservedAccesses : Prop :=
  ∀ (s : State), s.part.served = false →
    (∀ r d, exec (.registerWrite r d) s = .next s) ∧ (∀ r b, exec (.lowByteWrite r b) s = .next s)
      ∧ (∀ d, exec (.dataWrite d) s = .next s ∧ exec (.post d) s = .next s ∧ exec (.noticeWrite d) s = .next s)
      ∧ (∀ d, ∀ c ∈ controlRows d, exec c s = .next s)
      ∧ (s.part.power.resetLow = true ∨ (s.part.power.state ≠ .stopped ∧ s.part.zeroing = true) →
          s.part.busMode ≠ .serial →
          exec .dataRead s = .next { s with part.bus.dataOut := some 0 } ∧ exec .take s = .next { s with part.bus.dataOut := some 0 })
      ∧ (s.part.power.resetLow = false → s.part.power.state = .stopped →
          (s.part.busMode = .word16 → exec .dataRead s = .next { s with part.bus.dataOut := some 0xFFFF }
            ∧ exec .take s = .next { s with part.bus.dataOut := some 0xFFFF })
          ∧ (s.part.busMode = .byte8 → exec .dataRead s = .next { s with part.bus.dataOut := some 0xFF }
            ∧ exec .take s = .next { s with part.bus.dataOut := some 0xFF }))
      ∧ (s.part.busMode = .serial → exec .dataRead s = .next { s with part.bus.dataOut := none }
          ∧ exec .take s = .next { s with part.bus.dataOut := none })

/-- TRANSACTION_START, START_BYTE and TRANSACTION_END in the serial mode: a matching start byte (prefix 110, the latched SID)
frames the transaction with its register and direction, any other makes the part ignore the rest, and SEL_N going high ends it
(R80). While the port does not serve, a transaction that begins is ignored to its end with SDO released, and a start byte is not
taken (R86, R92, R186). That SDO keeps its last value after SEL_N has gone high is the model's choice (log 40), as is that a
second TRANSACTION_START inside a transaction, or a START_BYTE that is not a transaction's first byte, changes nothing (logs 12,
1), and, with the clock stopped in ACTIVE, HOLD or BRACE, what a start byte (log 12) and SEL_N going high (log 45) do. -/
def Obligations.SerialFraming : Prop :=
  (∀ s : State, s.part.served = true → s.part.busMode = .serial →
    (s.part.bus.serial = .idle →
      exec .transactionStart s = .next { s with part.bus.serial := .awaitStart, part.bus.dataOut := none })
    ∧ (s.part.bus.serial ≠ .idle → exec .transactionStart s = .next s)
    ∧ (∀ b : Byte, s.part.bus.serial ≠ .awaitStart → exec (.startByte b) s = .next s)
    ∧ (∀ b : Byte, s.part.bus.serial = .awaitStart → b.extractLsb' 5 3 = 6 → b.getLsbD 4 = s.part.bus.sid →
        exec (.startByte b) s = .next { s with part.bus.serial := .framed (regOfNumber (b.extractLsb' 1 3)) (b.getLsbD 0) })
    ∧ (∀ b : Byte, s.part.bus.serial = .awaitStart → (b.extractLsb' 5 3 ≠ 6 ∨ b.getLsbD 4 ≠ s.part.bus.sid) →
        exec (.startByte b) s = .next { s with part.bus.serial := .ignoring })
    ∧ exec .transactionEnd s = .next { s with part.bus.serial := .idle })
  ∧ ∀ s : State, s.part.served = false → s.part.busMode = .serial →
    (s.part.bus.serial = .idle →
      exec .transactionStart s = .next { s with part.bus.serial := .ignoring, part.bus.dataOut := none })
    ∧ (s.part.bus.serial ≠ .idle → exec .transactionStart s = .next s)
    ∧ (∀ b : Byte, s.part.bus.serial = .awaitStart → exec (.startByte b) s = .next { s with part.bus.serial := .ignoring })
    ∧ (∀ b : Byte, s.part.bus.serial ≠ .awaitStart → exec (.startByte b) s = .next s)
    ∧ exec .transactionEnd s = .next { s with part.bus.serial := .idle }

/-! ## Posting, TAKE and notices -/

/-- POST once intake has ended: the decisions of R98 in their order. A value of 32 or more is BAD_SLOT (all sixteen bits count), a
held slot HELD, a full queue FULL: each records the outcome and raises POST_REJECT and changes nothing else (R99). Otherwise the
slot is held and QUEUED, its phase byte reads 1, its number is at the tail of the queue and the outcome is ACCEPTED; no other slot
and no other byte changes. Before intake has ended the value is taken as the next configuration word and is not a post. -/
def Obligations.PostDecides : Prop :=
  ∀ (s : State) (d v : Word), s.part.writeValue .post d = some v → Mem.wf s.part.mem = true →
    (s.part.orders.intake = .ended →
      (∀ _ : 32 ≤ v.toNat, exec (.post d) s = .next { s with
          part.orders.lastPost := .badSlot, part.bus.sticky := s.part.bus.sticky ||| 0x02 })
      ∧ ∀ n : SlotNo, v = BitVec.ofNat 16 n.val →
        ((s.part.slot n).held = true → exec (.post d) s = .next { s with
            part.orders.lastPost := .held, part.bus.sticky := s.part.bus.sticky ||| 0x02 })
        ∧ ((s.part.slot n).held = false → 16 ≤ s.part.orders.postQueue.length → exec (.post d) s = .next { s with
            part.orders.lastPost := .full, part.bus.sticky := s.part.bus.sticky ||| 0x02 })
        ∧ ((s.part.slot n).held = false → s.part.orders.postQueue.length < 16 →
            ∃ t, exec (.post d) s = .next t ∧ t.part.slot n = ⟨true, .queued⟩ ∧ t.slotByte n 0 = 1
              ∧ (∀ m, m ≠ n → t.part.slot m = s.part.slot m) ∧ (∀ a, a ≠ slotBase n → t.byte a = s.byte a)
              ∧ t.part.orders.postQueue = s.part.orders.postQueue ++ [n] ∧ t.part.orders.lastPost = .accepted
              ∧ t = { s with part.mem := t.part.mem, part.orders.slots := t.part.orders.slots,
                             part.orders.postQueue := t.part.orders.postQueue, part.orders.lastPost := .accepted }))
    ∧ (s.part.orders.intake ≠ .ended → ∃ t, exec (.post d) s = .next t ∧ t.part.orders.lastPost = .configTaken
        ∧ t.part.orders.postQueue = s.part.orders.postQueue
        ∧ (s.part.orders.intake = .low → t.part.orders.intake = .high)
        ∧ (s.part.orders.intake = .high → t.part.orders.intake = .post)
        ∧ (s.part.orders.intake = .post → t.part.orders.intake = .ended))

/-- POST during intake: the first word is the low-water mark (2 to 32, else 4), the second the high-water mark (low-water mark + 1
to 64, else 8 or low-water mark + 1 if that is greater), the third the post mark (1 to 16, else 12) and ends intake; a replaced
word raises CONFIG_ADJUSTED (R102). The third word brings the low-water comparison, which does nothing before the mount has ended
MOUNTED or DEGRADED or with the free count above the mark (R51). -/
def Obligations.IntakeTakesWords : Prop :=
  (∀ p : Part, (p.mounted = false ∨ p.orders.lowMark < p.freeCount) → p.compareLow = p)
  ∧ ∀ (s : State) (d v : Word), s.part.writeValue .post d = some v →
    let low := if 2 ≤ v.toNat ∧ v.toNat ≤ 32 then v.toNat else 4
    let high := if s.part.orders.lowMark + 1 ≤ v.toNat ∧ v.toNat ≤ 64 then v.toNat else max 8 (s.part.orders.lowMark + 1)
    let mark := if 1 ≤ v.toNat ∧ v.toNat ≤ 16 then v.toNat else 12
    let flag := fun w : Nat => if v.toNat = w then s.part.bus.sticky else s.part.bus.sticky ||| 0x80
    (s.part.orders.intake = .low → exec (.post d) s = .next { s with
        part.orders.lowMark := low, part.orders.intake := .high, part.orders.lastPost := .configTaken,
        part.bus.sticky := flag low })
    ∧ (s.part.orders.intake = .high → exec (.post d) s = .next { s with
        part.orders.highMark := high, part.orders.intake := .post, part.orders.lastPost := .configTaken,
        part.bus.sticky := flag high })
    ∧ (s.part.orders.intake = .post → exec (.post d) s = .next (s.withPart (Part.refreshErase (Part.compareLow
        { s.part with
          orders.postMark := mark, orders.intake := .ended, orders.lastPost := .configTaken, bus.sticky := flag mark }))))

/-- TAKE in the word modes (16-bit, and serial in a read transaction of TAKE): the oldest number of the done list is returned in
the low byte with a high byte of 00hex, leaves the list, and its slot becomes not held, IDLE; an empty list returns 00FFhex and
nothing changes. The slot's bytes are neither read nor written. In the 8-bit mode it is the low-byte read of TAKE. After a clear has
taken effect the list is empty, and a TAKE returns FFhex (R79, R87, R109). -/
def Obligations.TakeReturnsOldest : Prop :=
  (∀ p : Part, p.clearNow.takeValue = 0x00FF)
  ∧ ∀ s : State, s.part.served = true →
    let out := fun v : Word => if s.part.busMode = .word16 then s.part.placed v else v
    (s.part.busMode = .byte8 → exec .take s = exec (.lowByteRead .take) s)
    ∧ ((s.part.busMode = .word16 ∨ (s.part.busMode = .serial ∧ s.part.bus.serial = .framed .take true)) →
      (s.part.orders.doneList = [] → exec .take s = .next { s with part.bus.dataOut := some (out 0x00FF) })
      ∧ ∀ (n : SlotNo) (rest : List SlotNo), s.part.orders.doneList = n :: rest →
        ∃ t, exec .take s = .next t ∧ t.part.bus.dataOut = some (out (BitVec.ofNat 16 n.val))
          ∧ t.part.orders.doneList = rest ∧ t.part.slot n = ⟨false, .idle⟩ ∧ (∀ m, m ≠ n → t.part.slot m = s.part.slot m)
          ∧ t = { s with part.bus.dataOut := t.part.bus.dataOut, part.orders.doneList := rest,
                         part.orders.slots := t.part.orders.slots })

/-- NOTICE_WRITE: each sticky flag whose bit of the written low byte is 1 is cleared, the others and DONE stay as they are;
the mask takes the written high byte; a read returns the flags in the low byte and the mask in the high byte. Where a write
that clears a flag and its raise meet, the later of the two stands. In the 8-bit mode the high-byte write does both, with the low
byte held from the low-byte write before it. The mask is 00hex after full reset, and a clear keeps it (R90). The notice flags and
ATTN: DONE is set exactly while the done list has an entry, and ATTN is asserted exactly while some set flag has
its mask bit set (R89, R91). -/
def Obligations.NoticesAndAttn : Prop :=
  ((∀ (s : State) (d v : Word), s.part.writeValue .notice d = some v →
    ∃ t, exec (.noticeWrite d) s = .next t ∧ t = { s with part.bus.sticky := t.part.bus.sticky, part.bus.mask := t.part.bus.mask }
      ∧ (∀ i, i < 8 → t.part.bus.sticky.getLsbD i = (s.part.bus.sticky.getLsbD i && !v.getLsbD i))
      ∧ t.part.bus.mask = v.extractLsb' 8 8
      ∧ (s.part.bus.sticky.getLsbD 0 = false → t.part.noticeFlags.getLsbD 0 = s.part.noticeFlags.getLsbD 0))
  ∧ (∀ p : Part, p.readRegister .notice = p.bus.mask ++ p.noticeFlags)
  ∧ (∀ (p : Part) (n : Sticky) (v : Word), (p.writeNotice v).raise n = (p.raise n).writeNotice v ∨
      (((p.writeNotice v).raise n).bus.sticky &&& n.bit = n.bit ∧ ((p.raise n).writeNotice v).bus.sticky &&& n.bit = 0))
  ∧ (∀ (p : Part) (d : Word), p.served = true → p.busMode = .byte8 →
      p.writeValue .notice d = some (d.extractLsb' 0 8 ++ p.bus.writeHold))
  ∧ (∀ st : Straps, (Part.reset st).bus.mask = 0) ∧ (∀ p : Part, p.clearNow.bus.mask = p.bus.mask))
  ∧ (∀ p : Part, p.bus.sticky &&& 1 = 0 →
    (p.noticeFlags.getLsbD 0 = true ↔ p.orders.doneList ≠ [])
      ∧ (∀ i, 1 ≤ i → i < 8 → p.noticeFlags.getLsbD i = p.bus.sticky.getLsbD i)
      ∧ (p.attn = true ↔ ∃ i, i < 8 ∧ p.noticeFlags.getLsbD i = true ∧ p.bus.mask.getLsbD i = true))

/-! ## CONTROL, power and the clock -/

/-- A CONTROL write with CLEAR and CUT 0 is the same command under each of the four rows (the model's construction, log 8), and in
ACTIVE with both levels 0 it only keeps the levels (R88, R178). With HOLD or PARK 1 in ACTIVE, no append in progress: HOLD, or
PARK at once when PARK is 1 and no lane has an operation in flight; the levels are kept; park pending is yes exactly while a park
is asked for and not yet entered. Memory, the order block, the units, the head writer, the directory and the segment table are
unchanged (R178, R181, R182). A CONTROL write with both levels 0 in HOLD, PWARN deasserted: ACTIVE when no clear is pending, else
HOLD; with no SCAN held and no trigger or release latched, memory, the order block, the units, the head writer and the tables are
unchanged (R178). In BRACE, and in HOLD with HOLD or PARK 1 or PWARN asserted, the state stays, park pending becomes yes with PARK
1 and no with PARK 0, and a park asked for in quiet is entered at once (R178, R181, R182); the levels are kept, and all else named
is unchanged. -/
def Obligations.ControlLevelsAct : Prop :=
  (∀ (s : State) (d v : Word), s.part.writeValue .control d = some v → levelsOnly v →
    (∀ c ∈ controlRows d, exec c s = exec (.hold d) s)
    ∧ (s.part.power.state = .active → v.getLsbD 0 = false → v.getLsbD 1 = false → ∀ c ∈ controlRows d,
        exec c s = .next (s.withPart
          (Part.refreshErase { s.part with bus.holdLevel := false, bus.parkLevel := false }))))
  ∧ (∀ (s : State) (d v : Word), s.part.writeValue .control d = some v → levelsOnly v →
    s.part.power.state = .active → s.part.head.append = none → (v.getLsbD 0 = true ∨ v.getLsbD 1 = true) →
    ∀ c ∈ controlRows d, ∃ t, exec c s = .next t
      ∧ t.part.power.state = (if v.getLsbD 1 && s.part.lanesIdle then .park else .hold)
      ∧ t.part.power.parkPending = (v.getLsbD 1 && !s.part.lanesIdle)
      ∧ t.part.bus.holdLevel = v.getLsbD 0 ∧ t.part.bus.parkLevel = v.getLsbD 1
      ∧ t.part.mem = s.part.mem ∧ t.part.orders = s.part.orders ∧ t.part.record = s.part.record ∧ t.part.scan = s.part.scan
      ∧ t.part.head = s.part.head ∧ t.part.dir = s.part.dir ∧ t.part.segs = s.part.segs ∧ t.part.reclaim = s.part.reclaim
      ∧ t.part.power.clearPending = s.part.power.clearPending)
  ∧ (∀ (s : State) (d v : Word), s.part.writeValue .control d = some v → levelsOnly v →
    s.part.power.state = .hold → v.getLsbD 0 = false → v.getLsbD 1 = false → s.part.seen.pwarn = false →
    ∀ c ∈ controlRows d, ∃ t, exec c s = .next t ∧ t.part.power.parkPending = false
      ∧ t.part.power.state = (if s.part.power.clearPending then .hold else .active)
      ∧ t.part.bus.holdLevel = false ∧ t.part.bus.parkLevel = false
      ∧ (s.part.scan = none → s.part.reclaim.latchedTrigger = false → s.part.reclaim.releasePending = false →
          s.part.head.append = none →
          t.part.mem = s.part.mem ∧ t.part.orders = s.part.orders ∧ t.part.record = s.part.record ∧ t.part.scan = none
          ∧ t.part.head = s.part.head ∧ t.part.dir = s.part.dir ∧ t.part.segs = s.part.segs
          ∧ t.part.reclaim = s.part.reclaim))
  ∧ ∀ (s : State) (d v : Word), s.part.writeValue .control d = some v → levelsOnly v →
    let parks := v.getLsbD 1 && s.part.lanesIdle && s.part.head.append.isNone
    (s.part.power.state = .brace
      ∨ (s.part.power.state = .hold ∧ (v.getLsbD 0 = true ∨ v.getLsbD 1 = true ∨ s.part.seen.pwarn = true))) →
    ∀ c ∈ controlRows d, ∃ t, exec c s = .next t
      ∧ t.part.power.state = (if parks then .park else s.part.power.state)
      ∧ t.part.power.parkPending = (v.getLsbD 1 && !parks)
      ∧ t.part.bus.holdLevel = v.getLsbD 0 ∧ t.part.bus.parkLevel = v.getLsbD 1
      ∧ t.part.mem = s.part.mem ∧ t.part.orders = s.part.orders ∧ t.part.record = s.part.record ∧ t.part.scan = s.part.scan
      ∧ t.part.head = s.part.head ∧ t.part.dir = s.part.dir ∧ t.part.segs = s.part.segs ∧ t.part.reclaim = s.part.reclaim
      ∧ t.part.power.clearPending = s.part.power.clearPending

/-- A CONTROL write in PARK: with PARK 0 and no wake in progress a wake begins, its settle count running if STORE_GOOD is asserted,
and LANE_PWR is asserted; with PARK 1 a wake in progress is abandoned and LANE_PWR deasserted; the state stays PARK (R178, R183,
R72). -/
def Obligations.ControlInPark : Prop :=
  ∀ (s : State) (d v : Word), s.part.writeValue .control d = some v → levelsOnly v → s.part.power.state = .park →
    ∀ c ∈ controlRows d, ∃ t, exec c s = .next t ∧ t.part.power.state = .park
      ∧ (v.getLsbD 1 = false → s.part.power.wake = none →
          t.part.power.wake = some ⟨s.part.seen.storeGood⟩ ∧ t.part.lanePwr = true)
      ∧ (v.getLsbD 1 = true → t.part.power.wake = none ∧ t.part.lanePwr = false)

/-- A CONTROL write hands its levels and its CLEAR and CUT requests to power control and the scan unit; the order of each of the
four rows is the model's (log 8). With both requests R88 gives an outcome for either order, and which row shows which is the
model's (log 43): under CLEAR the clear takes effect first where it may, the scan ends without results and the cut finds none;
under the others a scan held outside ACTIVE first ends PARTIAL / CUT. CLEAR_TAKES_EFFECT is takeClear, which does nothing while no
clear may take effect (logs 1, 3). A CLEAR request with CUT 0, whatever the levels, no append in progress: clear pending becomes
yes; in ACTIVE, where no park is pending, the state becomes HOLD in the same act, in HOLD and BRACE it stays, and a park asked for
in quiet is entered (R178, R181, R182, R185). In HOLD a write of both levels 0 keeps the state under the row that gives the clear
first, and under every row when PWARN is asserted or a clear is pending already. In PARK the clear is pending and the levels act
on the wake (R183). A CUT request with no SCAN held has no effect and is not kept. In ACTIVE, with an entry in hand, it waits as
cut pending; at an entry boundary the scan ends there. In HOLD, BRACE and PARK it ends the scan at once PARTIAL / CUT, the waiting
READ LINE withdrawn, one in flight to be discarded and the readers count released; the slot joins the done list with the cursor as
its resume key (R73, R113, R146, R147). -/
def Obligations.RequestsReachOwners : Prop :=
  let answers := fun (s : State) (p : Part) => (Host.Outcome.next (s.withPart p.refreshErase) : Host.Outcome State Fault Refusal)
  (∀ (s : State) (d v : Word), s.part.writeValue .control d = some v →
    exec (.hold d) s = answers s (((s.part.controlLevels v).controlClear v).controlCut v)
      ∧ exec (.park d) s = answers s (((s.part.controlLevels v).controlCut v).controlClear v)
      ∧ exec (.clear d) s = answers s ((((s.part.controlClear v).controlLevels v).clearBeforeCut v).controlCut v)
      ∧ exec (.cut d) s = answers s (((s.part.controlCut v).controlLevels v).controlClear v))
  ∧ (∀ (p : Part) (v : Word),
    let hold := v.getLsbD 0
    let park := v.getLsbD 1
    let kept : Part := { p with bus.holdLevel := hold, bus.parkLevel := park }
    let q : Part := { kept with power.parkPending := park }
    (p.power.state = .active → p.controlLevels v = if hold || park then q.enterContained .hold else kept)
    ∧ (p.power.state = .hold → p.controlLevels v
        = if hold = false ∧ park = false ∧ p.seen.pwarn = false ∧ p.power.clearPending = false then
            (Part.reclaimReturns { q with power.state := .active }).scanBoundary
          else q.watchQuiet)
    ∧ (p.power.state = .brace → p.controlLevels v = q.watchQuiet)
    ∧ (p.power.state = .park → p.controlLevels v = { kept with
        power.wake := if park then none else if p.power.wake.isSome then p.power.wake else some ⟨p.seen.storeGood⟩ })
    ∧ (let c : Part := { p with power.clearPending := true }
       p.controlClear v = if v.getLsbD 2 then (if p.power.state = .active then c.enterContained .hold else c) else p)
    ∧ (p.controlCut v = if v.getLsbD 3 then p.cutScan else p)
    ∧ p.clearBeforeCut v = if v.getLsbD 2 = true ∧ v.getLsbD 3 = true then p.takeClear else p)
  ∧ (∀ p : Part,
    (p.power.clearPending = true → p.power.state ≠ .active → p.head.append = none → p.takeClear = p.clearNow)
    ∧ (p.power.clearPending = false ∨ p.power.state = .active ∨ p.head.append ≠ none → p.takeClear = p))
  ∧ (∀ s : State, s.part.live = true → exec .clearTakesEffect s = answers s s.part.takeClear)
  ∧ (∀ (s : State) (d v : Word), s.part.writeValue .control d = some v → v.getLsbD 2 = true → v.getLsbD 3 = true →
    Mem.wf s.part.mem = true →
    (s.part.head.append = none → (s.part.power.state = .active → s.part.power.parkPending = false) →
      ∃ t, exec (.clear d) s = .next t ∧ t.part.scan = none ∧ t.part.power.clearPending = false
        ∧ (∀ n, t.part.slot n = ⟨false, .idle⟩) ∧ t.part.orders.doneList = []
        ∧ (∀ n : SlotNo, (s.part.slot n).held = true → t.slotByte n 0 = 4)
        ∧ ∀ a, (∀ n : SlotNo, (s.part.slot n).held = true → a ≠ slotBase n) → t.byte a = s.byte a)
    ∧ ∀ (o : ScanOrder), ∀ c ∈ [Instr.hold d, .park d, .cut d], s.part.power.state ≠ .active → s.part.scan = some o →
      (s.part.power.state = .hold → (v.getLsbD 0 = true ∨ v.getLsbD 1 = true ∨ s.part.seen.pwarn = true
        ∨ s.part.power.clearPending = true)) →
      ∃ t, exec c s = .next t ∧ t.part.scan = none ∧ t.part.power.clearPending = true
        ∧ t.part.orders.doneList = s.part.orders.doneList ++ [o.slot] ∧ t.part.slot o.slot = ⟨true, .done⟩
        ∧ t.slotByte o.slot 0 = 3 ∧ t.slotByte o.slot 3 = 2 ∧ t.slotByte o.slot 4 = 33)
  ∧ (∀ p : Part,
    let cut : Result := ⟨.partly, .cut, false, false, 0, 0, 0, 0, 0⟩
    (p.scan = none → p.cutScan = p)
    ∧ ∀ o, p.scan = some o →
      (p.power.state = .active → o.inHand ≠ none → p.cutScan = { p with scan := some { o with cutPending := true } })
      ∧ (p.power.state = .active → o.inHand = none → p.cutScan = p.endScan o cut o.cursor)
      ∧ (p.power.state ≠ .active → o.inHand = none → p.cutScan = p.endScan o cut o.cursor)
      ∧ (∀ h, p.power.state ≠ .active → o.inHand = some h →
          p.cutScan = Part.endScan o cut o.cursor (Part.releaseReader h.holds (p.dropWork .scan))))
  ∧ (∀ (p : Part) (rq : Requester) (l : Lane),
    let r := p.lane l
    let x := (p.dropWork rq).lane l
    let discards := rq ∈ [Requester.record, .scan, .reclaim] ∧ ∃ op ms, r.inFlight = some ⟨rq, op, ms, true⟩
    { p.dropWork rq with lanes := p.lanes } = p ∧ x.waiting = r.waiting.set rq none
      ∧ x.inFlight = r.inFlight.map (fun f => if f.requester = rq then { f with discard := true } else f)
      ∧ (discards → x.heldBack = none) ∧ (¬ discards → x.heldBack = r.heldBack)
      ∧ { x with waiting := r.waiting, inFlight := r.inFlight, heldBack := r.heldBack } = r)
  ∧ (∀ (s : State) (d v : Word), s.part.writeValue .control d = some v → v.getLsbD 2 = true → v.getLsbD 3 = false →
    let parks := v.getLsbD 1 && s.part.lanesIdle
    (s.part.head.append = none → ∀ c ∈ controlRows d,
      (s.part.power.state = .brace ∨ (s.part.power.state = .active ∧ s.part.power.parkPending = false)
        ∨ (s.part.power.state = .hold ∧ (c = .clear d ∨ v.getLsbD 0 = true ∨ v.getLsbD 1 = true ∨ s.part.seen.pwarn = true
            ∨ s.part.power.clearPending = true))) →
      ∃ t, exec c s = .next t ∧ t.part.power.clearPending = true
        ∧ t.part.power.state = (if parks then .park else if s.part.power.state = .active then .hold else s.part.power.state)
        ∧ t.part.power.parkPending = (v.getLsbD 1 && !parks)
        ∧ t.part.bus.holdLevel = v.getLsbD 0 ∧ t.part.bus.parkLevel = v.getLsbD 1
        ∧ t.part.orders = s.part.orders ∧ t.part.mem = s.part.mem ∧ t.part.record = s.part.record ∧ t.part.scan = s.part.scan
        ∧ t.part.head = s.part.head ∧ t.part.dir = s.part.dir ∧ t.part.segs = s.part.segs ∧ t.part.reclaim = s.part.reclaim)
    ∧ (s.part.power.state = .park → ∀ c ∈ controlRows d, exec c s = answers s { s.part with
        bus.holdLevel := v.getLsbD 0, bus.parkLevel := v.getLsbD 1, power.clearPending := true,
        power.wake := if v.getLsbD 1 then none
          else if s.part.power.wake.isSome then s.part.power.wake else some ⟨s.part.seen.storeGood⟩ }))
  ∧ (∀ (s : State) (d v : Word), s.part.writeValue .control d = some v →
    v.getLsbD 0 = false → v.getLsbD 1 = false → v.getLsbD 2 = false → v.getLsbD 3 = true → s.part.power.state = .active →
    (s.part.scan = none → exec (.cut d) s = answers s { s.part with bus.holdLevel := false, bus.parkLevel := false })
    ∧ (∀ o : ScanOrder, s.part.scan = some o → o.inHand.isSome = true → exec (.cut d) s = answers s
        { s.part with scan := some { o with cutPending := true }, bus.holdLevel := false, bus.parkLevel := false })
    ∧ (∀ o : ScanOrder, s.part.scan = some o → o.inHand = none → exec (.cut d) s = answers s
        { s.part.endScan o ⟨.partly, .cut, false, false, 0, 0, 0, 0, 0⟩ o.cursor with
          bus.holdLevel := false, bus.parkLevel := false }))
  ∧ ∀ (s : State) (d v : Word), s.part.writeValue .control d = some v → v.getLsbD 2 = false → v.getLsbD 3 = true →
    (s.part.scan = none → exec (.cut d) s = answers s (s.part.controlLevels v))
    ∧ ∀ o : ScanOrder, s.part.power.state ≠ .active → s.part.scan = some o → Mem.wf s.part.mem = true →
      (s.part.power.state = .hold → (v.getLsbD 0 = true ∨ v.getLsbD 1 = true ∨ s.part.seen.pwarn = true
        ∨ s.part.power.clearPending = true)) →
      ∃ t, exec (.cut d) s = .next t ∧ t.part.scan = none ∧ t.part.orders.doneList = s.part.orders.doneList ++ [o.slot]
        ∧ t.part.slot o.slot = ⟨true, .done⟩ ∧ t.slotByte o.slot 0 = 3 ∧ t.slotByte o.slot 3 = 2 ∧ t.slotByte o.slot 4 = 33
        ∧ t.slotByte o.slot 28 ++ t.slotByte o.slot 29 ++ t.slotByte o.slot 30 ++ t.slotByte o.slot 31
            = o.cursor.extractLsb' 0 8 ++ o.cursor.extractLsb' 8 8 ++ o.cursor.extractLsb' 16 8 ++ o.cursor.extractLsb' 24 8

/-- CLEAR_TAKES_EFFECT while pending, the state not ACTIVE and no append in progress: every held slot's phase byte reads 4 and no
other byte changes; every slot is not held, IDLE; queue, done list and last post outcome are emptied; configuration, directory,
counters, the whole bus port but for the sticky flags (straps, pointer, window, read latch, write holding and read capture bytes,
levels, mask), the mount state and progress and each lane's state, count, last granted and operation in flight are kept (R57, R79,
R92, R164, R185; a park entered at quiet stops the mount settle count); clear pending is no. The part as the clear's own effects
leave it, `q`: the units free, their requests withdrawn and their results to be discarded, the sticky flags clear, reclaim as
after reset but for a trigger latched when the free count stands at or below the low-water mark, a RECLAIMING tail CLOSED again,
the readers counts of the GET and of the scan's entry in hand released. In the same act the state becomes BRACE with PWARN
asserted, HOLD with a level 1, else ACTIVE, where reclaim takes up the latched trigger; PARK stays PARK (R42, R53, R89, R92, R114,
R115, R136, R149, R151, R185). With the free count above the mark reclaim is IDLE with no tail and the sticky flags are clear
afterwards too. -/
def Obligations.ClearTakesEffect : Prop :=
  ∀ s : State, s.part.live = true → s.part.power.clearPending = true → s.part.power.state ≠ .active →
    s.part.head.append = none → Mem.wf s.part.mem = true →
    let level := s.part.bus.holdLevel || s.part.bus.parkLevel
    ∃ (t : State) (q : Part), exec .clearTakesEffect s = .next t
      ∧ (∀ n : SlotNo, (s.part.slot n).held = true → t.slotByte n 0 = 4)
      ∧ (∀ a, (∀ n : SlotNo, (s.part.slot n).held = true → a ≠ slotBase n) → t.byte a = s.byte a)
      ∧ (∀ n, t.part.slot n = ⟨false, .idle⟩) ∧ t.part.orders.postQueue = [] ∧ t.part.orders.doneList = []
      ∧ t.part.orders.lastPost = .none ∧ t.part.unitSlots = []
      ∧ t.part.orders.intake = s.part.orders.intake ∧ t.part.orders.lowMark = s.part.orders.lowMark
      ∧ t.part.orders.highMark = s.part.orders.highMark ∧ t.part.orders.postMark = s.part.orders.postMark
      ∧ t.part.dir = s.part.dir ∧ t.part.head.seqCounter = s.part.head.seqCounter
      ∧ t.part.head.epochCounter = s.part.head.epochCounter ∧ t.part.bus.mask = s.part.bus.mask
      ∧ t.part.bus.pointer = s.part.bus.pointer ∧ t.part.bus.winStart = s.part.bus.winStart
      ∧ t.part.bus.winEnd = s.part.bus.winEnd ∧ t.part.bus.readLatch = s.part.bus.readLatch
      ∧ t.part.bus.holdLevel = s.part.bus.holdLevel ∧ t.part.bus.parkLevel = s.part.bus.parkLevel
      ∧ { t.part.bus with sticky := s.part.bus.sticky } = s.part.bus
      ∧ { t.part.mount with settle := s.part.mount.settle } = s.part.mount
      ∧ (s.part.power.parkPending = false → t.part.mount = s.part.mount)
      ∧ t.part.pins = s.part.pins ∧ t.part.seen = s.part.seen ∧ t.part.zeroing = s.part.zeroing
      ∧ t.part.lastHeadLane = s.part.lastHeadLane ∧ t.part.head.recordsInHead = s.part.head.recordsInHead
      ∧ t.part.head.lastGranted = s.part.head.lastGranted
      ∧ (∀ l, (t.part.lane l).state = (s.part.lane l).state ∧ (t.part.lane l).count = (s.part.lane l).count
          ∧ (t.part.lane l).inFlight = (q.lane l).inFlight ∧ (t.part.lane l).lastGranted = (s.part.lane l).lastGranted
          ∧ (t.part.lane l).linkDriven = (s.part.lane l).linkDriven)
      ∧ t.part.power.clearPending = false
      ∧ q.reclaim = { Reclaim.reset with
          latchedTrigger := s.part.mounted && decide (s.part.freeCount ≤ s.part.orders.lowMark) }
      ∧ q.bus = { s.part.bus with sticky := 0 } ∧ q.record = none ∧ q.scan = none ∧ q.format = none
      ∧ q.mount = s.part.mount ∧ q.dir = s.part.dir ∧ q.pins = s.part.pins ∧ q.seen = s.part.seen ∧ q.zeroing = s.part.zeroing
      ∧ q.lastHeadLane = s.part.lastHeadLane ∧ q.freeIndex = s.part.freeIndex ∧ q.mem = t.part.mem
      ∧ q.orders = { s.part.orders with
          slots := Vector.replicate 32 ⟨false, .idle⟩, postQueue := [], doneList := [], lastPost := .none }
      ∧ q.power = { s.part.power with clearPending := false }
      ∧ q.head = { s.part.head with orderReq := none, copyReq := none }
      ∧ (∀ a, q.seg a = { s.part.seg a with
            state := if s.part.reclaim.tail = some a ∧ (s.part.seg a).state = .reclaiming then .closed else (s.part.seg a).state,
            readers := (s.part.seg a).readers - s.part.heldReaders a })
      ∧ (∀ l, (∀ rq ∈ [Requester.record, .scan, .reclaim], (q.lane l).waiting.get rq = none
            ∧ ∀ f, (q.lane l).inFlight = some f → f.requester = rq → f.discard = true)
          ∧ (∀ rq ∈ [Requester.mount, .head, .erase], (q.lane l).waiting.get rq = (s.part.lane l).waiting.get rq)
          ∧ (q.lane l).inFlight = (s.part.lane l).inFlight.map (fun f =>
              if f.requester ∈ [Requester.record, .scan, .reclaim] then { f with discard := true } else f)
          ∧ (let discards := ∃ rq ∈ [Requester.record, .scan, .reclaim], ∃ op ms,
                (s.part.lane l).inFlight = some ⟨rq, op, ms, true⟩
             (discards → (q.lane l).heldBack = none) ∧ (¬ discards → (q.lane l).heldBack = (s.part.lane l).heldBack))
          ∧ (q.lane l).state = (s.part.lane l).state ∧ (q.lane l).count = (s.part.lane l).count
          ∧ (q.lane l).lastGranted = (s.part.lane l).lastGranted ∧ (q.lane l).linkDriven = (s.part.lane l).linkDriven)
      ∧ (s.part.power.state = .park → t.part = q.refreshErase)
      ∧ (s.part.power.state ≠ .park → s.part.seen.pwarn = true →
          t.part = (if s.part.power.state = .brace then q else q.enterContained .brace).refreshErase)
      ∧ (s.part.power.state ≠ .park → s.part.seen.pwarn = false → level = true →
          t.part = (if s.part.power.state = .hold then q else q.enterContained .hold).refreshErase)
      ∧ (s.part.power.state ≠ .park → s.part.seen.pwarn = false → level = false →
          t.part = (Part.reclaimReturns { q with power.state := .active }).refreshErase ∧ t.part.power.state = .active)
      ∧ (s.part.power.state = .park → t.part.power.state = .park)
      ∧ (s.part.power.state = .brace → s.part.seen.pwarn = true → t.part.power.state = .brace)
      ∧ (s.part.power.state = .hold → s.part.seen.pwarn = false → level = true → t.part.power.state = .hold)
      ∧ (s.part.power.state ≠ .park → s.part.power.parkPending = false →
          t.part.power.state = if s.part.seen.pwarn then .brace else if level then .hold else .active)
      ∧ (s.part.mounted = false ∨ s.part.orders.lowMark < s.part.freeCount →
          s.part.power.state ≠ .hold ∨ s.part.seen.pwarn = false →
          t.part.reclaim = Reclaim.reset ∧ t.part.bus.sticky = 0)
      ∧ (s.part.power.state = .park → t.part.power.state = .park ∧ t.part.bus.sticky = 0 ∧ t.part.reclaim.state = .idle
          ∧ t.part.reclaim.tail = none)

/-- QUIET_REACHED: with nothing in flight and no append, BRACED is raised when quiet is new in BRACE, and a pending park is
entered: PARK, park pending no, LANE_PWR deasserted (R181, R182, R72). That quiet is new is the model's flag quietSeen (log 34,
DESIGN CHOICE), and that a park withdraws the mount engine's waiting requests is the model's reading (log 19). The whole of it,
watchQuiet, also as a change to HOLD or BRACE makes it, after an append not begun is set back (R135, R177, R180). -/
def Obligations.QuietParks : Prop :=
  (∀ s : State, s.part.live = true → s.part.lanesIdle = true → s.part.head.append = none →
    (s.part.power.state = .hold ∨ s.part.power.state = .brace) →
    ∃ t, exec .quietReached s = .next t
      ∧ (s.part.power.parkPending = true →
          t.part.power.state = .park ∧ t.part.power.parkPending = false ∧ (s.part.power.wake = none → t.part.lanePwr = false))
      ∧ (s.part.power.parkPending = false → t.part.power.state = s.part.power.state)
      ∧ (s.part.power.state = .brace → s.part.power.quietSeen = false → t.part.bus.sticky &&& 0x40 = 0x40)
      ∧ t.part.mem = s.part.mem ∧ t.part.orders = s.part.orders ∧ t.part.dir = s.part.dir ∧ t.part.segs = s.part.segs
      ∧ t.part.head = s.part.head ∧ t.part.record = s.part.record ∧ t.part.scan = s.part.scan ∧ t.part.reclaim = s.part.reclaim)
  ∧ (∀ s : State, s.part.live = true → exec .quietReached s = .next (s.withPart s.part.watchQuiet.refreshErase))
  ∧ (∀ p : Part,
    let ready := (p.power.state = .hold ∨ p.power.state = .brace) ∧ p.lanesIdle = true ∧ p.head.append = none
    let q : Part := if p.power.quietSeen then p else
      { p with power.quietSeen := true, bus.sticky := p.bus.sticky ||| (if p.power.state = .brace then 0x40 else 0) }
    (¬ ready → p.watchQuiet = p)
    ∧ (ready → p.power.parkPending = false → p.watchQuiet = q)
    ∧ (ready → p.power.parkPending = true → p.watchQuiet = { q with
        power.state := .park, power.parkPending := false, mount.settle := false,
        lanes := p.lanes.map fun r => { r with waiting.mount := none } }))
  ∧ ∀ p : Part,
    (∀ st, p.enterContained st
      = Part.watchQuiet (Part.requestSetBack .power { p with power.state := st, power.quietSeen := false }))
    ∧ (p.head.append = none → ∀ cause, p.requestSetBack cause = p)

/-- WAKE_SETTLED while the settle count runs in PARK: the wake ends in HOLD, or BRACE while PWARN is asserted, the lane states and
counts unchanged (R183, R179). WAKE_LIMIT during a wake: every PRESENT lane becomes OFFLINE, its count kept, with LANE_OFFLINE
raised, and the wake ends in HOLD, or BRACE while PWARN is asserted; lanes not PRESENT keep their state (R183, R70). The whole of
both: the wake ends, at the limit the lanes are lost as at a loss of store supply (loseSupply, which LanesLost unfolds), and then
the mount engine goes on and quiet is watched (R165, R175, R181). Without the count or the wake, or outside PARK, nothing changes
but the erase requests (log 1). -/
def Obligations.WakeEnds : Prop :=
  ((∀ s : State, s.part.live = true → s.part.power.state = .park → s.part.power.wake = some ⟨true⟩ →
    ∃ t, exec .wakeSettled s = .next t ∧ t.part.power.state = (if s.part.seen.pwarn then .brace else .hold)
      ∧ t.part.power.wake = none ∧ t.part.power.parkPending = false
      ∧ (∀ l, (t.part.lane l).state = (s.part.lane l).state ∧ (t.part.lane l).count = (s.part.lane l).count)
      ∧ t.part.mem = s.part.mem ∧ t.part.dir = s.part.dir ∧ t.part.segs = s.part.segs ∧ t.part.orders = s.part.orders)
  ∧ (∀ s : State, s.part.live = true → s.part.power.state = .park → s.part.power.wake.isSome = true →
    ∃ t, exec .wakeLimit s = .next t ∧ t.part.power.state = (if s.part.seen.pwarn then .brace else .hold)
      ∧ t.part.power.wake = none
      ∧ (∀ l, s.part.present l = true → (t.part.lane l).state = .offline ∧ (t.part.lane l).count = (s.part.lane l).count)
      ∧ (∀ l, s.part.present l = false → (t.part.lane l).state = (s.part.lane l).state)
      ∧ ((∃ l, s.part.present l = true) → t.part.bus.sticky &&& 0x04 = 0x04)))
  ∧ (∀ s : State, s.part.live = true → s.part.power.state = .park →
    let ended : Part := { s.part with
      power.state := if s.part.seen.pwarn then .brace else .hold, power.wake := none, power.parkPending := false,
      power.quietSeen := false }
    let goesOn := fun p : Part => Part.watchQuiet (Part.placeMountAll { p with
      mount.settle := p.seen.storeGood && (p.mount.state == .waiting && !p.zeroing) })
    (s.part.power.wake = some ⟨true⟩ → exec .wakeSettled s = .next (s.withPart (goesOn ended).refreshErase))
    ∧ (s.part.power.wake.isSome = true → exec .wakeLimit s = .next (s.withPart (goesOn ended.loseSupply).refreshErase))
    ∧ (s.part.power.wake ≠ some ⟨true⟩ → exec .wakeSettled s = .next (s.withPart s.part.refreshErase))
    ∧ (s.part.power.wake = none → exec .wakeLimit s = .next (s.withPart s.part.refreshErase)))
  ∧ ∀ s : State, s.part.live = true → s.part.power.state ≠ .park →
    exec .wakeSettled s = .next (s.withPart s.part.refreshErase) ∧ exec .wakeLimit s = .next (s.withPart s.part.refreshErase)

/-- PWARN_ASSERT and PWARN_DEASSERT, with no append in progress and no park pending: asserted in ACTIVE or HOLD the state becomes
BRACE, deasserted in BRACE it becomes HOLD; PARK keeps its state. Memory, the order block, the units, the head writer, the directory
and the segment table are unchanged (R179). -/
def Obligations.PwarnBraces : Prop :=
  ∀ s : State, s.part.live = true → s.part.head.append = none → s.part.power.parkPending = false →
    (∃ t, exec .pwarnAssert s = .next t ∧ t.part.pins.pwarn = true ∧ t.part.seen.pwarn = true
      ∧ t.part.power.state = (if s.part.power.state = .active ∨ s.part.power.state = .hold then .brace else s.part.power.state)
      ∧ t.part.mem = s.part.mem ∧ t.part.orders = s.part.orders ∧ t.part.power.clearPending = s.part.power.clearPending
      ∧ t.part.dir = s.part.dir ∧ t.part.segs = s.part.segs ∧ t.part.head = s.part.head ∧ t.part.record = s.part.record
      ∧ t.part.scan = s.part.scan ∧ t.part.reclaim = s.part.reclaim)
    ∧ (∃ t, exec .pwarnDeassert s = .next t ∧ t.part.pins.pwarn = false ∧ t.part.seen.pwarn = false
      ∧ (s.part.power.state = .brace → t.part.power.state = .hold)
      ∧ (s.part.power.state = .park → t.part.power.state = .park)
      ∧ t.part.mem = s.part.mem ∧ t.part.orders = s.part.orders ∧ t.part.power.clearPending = s.part.power.clearPending
      ∧ t.part.dir = s.part.dir ∧ t.part.segs = s.part.segs ∧ t.part.head = s.part.head ∧ t.part.record = s.part.record
      ∧ t.part.scan = s.part.scan ∧ t.part.reclaim = s.part.reclaim)

/-- WINH_ASSERT and WINH_DEASSERT: the level is seen and nothing else of the part changes but the erase requests and, at a rise,
an append set back; while WINH is asserted no erase request waits and no starting program is grantable, continuing ones are (R44,
R67). The setting back (R135), by WINH or, as the power state leaves ACTIVE at PWARN, by the power state: an append with a record
line programmed, or with its first record line in flight, is not set back; one with a trailer or header in flight is noted to be
(WINH prevails: log 16) and leaves progress at that program's end, at a trailer's after the release signal of a HEAD that enters
CLOSED (R41, R52); otherwise its waiting request is withdrawn, a segment taken for opening is FREE again (log 15), and it leaves
progress at once. An order append set back by WINH ends FAULT / WRITE_INHIBITED with its sequence; by the power state it returns
to the record unit's request, waiting, and keeps its sequence; a copy returns to the reclaim unit's request, but is dropped while
a FORMAT has suspended that unit (log 17). -/
def Obligations.WinhHoldsPrograms : Prop :=
  (∀ s : State, s.part.live = true →
    let q : Part := { s.part with pins.winh := true, seen.winh := true }
    let u : Part := { s.part with pins.winh := false, seen.winh := false }
    (s.part.seen.winh = true ∨ s.part.head.append = none → exec .winhAssert s = .next (s.withPart q.refreshErase))
    ∧ (s.part.seen.winh = false → exec .winhAssert s = .next (s.withPart (q.requestSetBack .winh).refreshErase))
    ∧ (∃ t, exec .winhAssert s = .next t ∧ (∀ l, (t.part.lane l).waiting.erase = none)
        ∧ ∀ r : Request, t.part.grantable .head r = r.continuing)
    ∧ exec .winhDeassert s = .next (s.withPart u.refreshErase)
    ∧ (s.part.power.state = .active → ∀ r : Request, u.refreshErase.grantable .head r = true)
    ∧ (s.part.power.state = .active → exec .pwarnAssert s = .next (s.withPart (Part.refreshErase (Part.watchQuiet
        (Part.requestSetBack .power
          { s.part with pins.pwarn := true, seen.pwarn := true, power.state := .brace, power.quietSeen := false }))))))
  ∧ (∀ p : Part, { p.refreshErase with lanes := p.lanes } = p
      ∧ ∀ l, { p.refreshErase.lane l with waiting.erase := (p.lane l).waiting.erase } = p.lane l)
  ∧ (∀ (p : Part) (a : Append), p.head.append = some a →
    (a.started = true → ∀ cause, p.requestSetBack cause = p)
    ∧ (∀ cause sg first, a.step = .programming sg first → (p.lane sg.lane).flier = some .head → p.requestSetBack cause = p)
    ∧ (∀ sg, a.started = false → (a.step = .opening sg ∨ ∃ cause, a.step = .closing sg cause) →
        (p.lane sg.lane).flier = some .head →
        p.requestSetBack .winh = { p with head.append := some { a with setBack := some .winh } }
        ∧ p.requestSetBack .power
            = { p with head.append := some { a with setBack := some (if a.setBack = some .winh then .winh else .power) } })
    ∧ (∀ cause sg, a.started = false → a.step.seg = some sg → (p.lane sg.lane).flier ≠ some .head →
        p.requestSetBack cause = Part.setBackNow cause a
          (if a.step = .opening sg then
            ((p.withdraw sg.lane .head).modSeg sg fun _ => ⟨.free, 0, 0, 0, 1, false, 0, false⟩).afterRise
          else p.withdraw sg.lane .head)))
  ∧ (∀ (p : Part) (a : Append),
    (∀ r, a.work = .order r →
      p.setBackNow .winh a = Part.finishRecord
          { faultResult .writeInhibited with retried := a.repeated, sequence := a.sequence } { p with head.append := none }
      ∧ p.setBackNow .power a = { p with
          head.append := none, head.orderReq := some { r with sequence := some a.sequence, waitingRoom := false } })
    ∧ (∀ c cause, a.work = .copy c → p.setBackNow cause a =
        if p.reclaim.suspended then { p with head.append := none } else { p with head.append := none, head.copyReq := some c }))
  ∧ (∀ (s : State) (l : Lane) (status : Byte) (rq : Requester) (i n ms : Nat) (b : List Byte) (disc : Bool) (a : Append)
      (sg : SegAddr) (sb : SetBack), s.part.live = true →
    (s.part.lane l).inFlight = some ⟨rq, .programLine i n b, ms, disc⟩ → s.part.head.append = some a → a.setBack = some sb →
    (a.step = .opening sg → status = 0 → exec (.programLineEnd l status) s = .next (s.withPart (Part.refreshErase
        (Part.setBackNow sb a (Part.wakeRoom
          { Part.modSeg sg (fun e => { e with state := .head, used := 0, goodEnd := 1, claimed := 0, trailered := false })
              (s.part.landed l) with head.recordsInHead := 0 })))))
    ∧ (a.step = .opening sg → status ≠ 0 → exec (.programLineEnd l status) s = .next (s.withPart (Part.refreshErase
        (Part.setBackNow sb a (Part.modSeg sg (fun e => { e with state := .eraseWait, retire := true }) (s.part.landed l))))))
    ∧ (∀ cause, a.step = .closing sg cause →
        let closed : Part :=
          { Part.modSeg sg (fun e => { e with
                state := .closed, trailered := decide (status = 0),
                retire := e.retire || decide (cause ≠ .noRoom) || decide (status ≠ 0) })
              (s.part.landed l) with head.recordsInHead := 0 }
        let told := if (s.part.seg sg).state = .head then closed.releaseIfClosed sg else closed
        exec (.programLineEnd l status) s = .next (s.withPart (Part.refreshErase
          (if cause = .secondFailure then told.endAppend .programFault a else told.setBackNow sb a))))
    ∧ (a.step = .closing sg .noRoom → s.part.reclaim.state ≠ .stalled →
        exec (.programLineEnd l status) s = .next (s.withPart (Part.refreshErase (Part.setBackNow sb a
          { Part.modSeg sg (fun e => { e with
                state := .closed, trailered := decide (status = 0), retire := e.retire || decide (status ≠ 0) })
              (s.part.landed l) with head.recordsInHead := 0 })))))

/-- STORE_GOOD_RISE starts the mount settle count in WAITING once the zeroing has ended, and a wake's settle count in PARK
(R165, R183). STORE_GOOD_SETTLED: MOUNTING, step identify, and IDENTIFY placed on all four lanes in the same act (R165,
R166). Stated for lanes as the full reset leaves them. -/
def Obligations.StoreGoodStartsMount : Prop :=
  (∀ s : State, s.part.live = true → s.part.seen.storeGood = false →
    ∃ t, exec .storeGoodRise s = .next t ∧ t.part.seen.storeGood = true
      ∧ (s.part.mount.state = .waiting → s.part.zeroing = false → s.part.power.state ≠ .park → t.part.mount.settle = true)
      ∧ (s.part.power.state = .park → t.part.mount.settle = false)
      ∧ (s.part.power.wake.isSome = true → t.part.power.wake = some ⟨true⟩)
      ∧ t.part.mem = s.part.mem ∧ t.part.orders = s.part.orders ∧ t.part.head = s.part.head ∧ t.part.segs = s.part.segs
      ∧ (∀ l, (t.part.lane l).state = (s.part.lane l).state))
  ∧ (∀ s : State, s.part.live = true → s.part.mount.settle = true → s.part.power.state ≠ .park →
    (∀ l, s.part.lane l = LaneRec.reset) → s.part.mount.lanes = Mount.reset.lanes →
    ∃ t, exec .storeGoodSettled s = .next t ∧ t.part.mount.state = .mounting ∧ t.part.mount.step = .identify
      ∧ (∀ l, (t.part.lane l).waiting.mount = some ⟨.identify, false⟩)
      ∧ t.part.mem = s.part.mem ∧ t.part.orders = s.part.orders ∧ t.part.dir = s.part.dir ∧ t.part.head = s.part.head)

/-- A lane lost, by STORE_GOOD_FALL outside PARK or by TIME_LIMIT_EXPIRY of an operation other than IDENTIFY: OFFLINE, its count
kept, nothing in flight, waiting or held back, the link released, LANE_OFFLINE raised; in PARK no lane changes. A lane whose
IDENTIFY ends so becomes ABSENT with count 0, its IDENTIFY ended, and raises nothing (that it keeps driving its link: log 29); the
mount engine then takes stock (R166), and while another lane's has not ended nothing else changes. Every other lane keeps its
state (R58, R68, R69, R70). What a loss does, the order of its parts being the model's (log 14); with no lane PRESENT nothing (log
41). The tables: a HEAD there is CLOSED untrailered, records in head 0 (log 30), and a fall of the free count brings the low-water
comparison (R41, R47, R51); segments there in ERASE_WAIT or ERASING are reported ended (R157); a tail there halts reclaim, else a
copy waiting for room is checked again (R153, R156). Then mount (R171), and each requester whose operation there ended, one in
flight with the loss's reason, one waiting or held back LANE_OFFLINE: a GET ends with the reason, sequence and length, its readers
count released (R121); a scan's entry counts damaged and its readers count is released (R141); an order append programming ends
with the reason, a copy is submitted again or halts the unit; a segment OPENING goes to ERASE_WAIT with retire, one being closed
is CLOSED untrailered, and the append goes on to its next opening, is set back where that was decided, or after its second failure
ends (R133, R134, R135). -/
def Obligations.LanesLost : Prop :=
  (∀ s : State, s.part.live = true → s.part.seen.storeGood = true →
    let u : Part := { s.part with
      pins.storeGood := false, seen.storeGood := false, mount.settle := false, power.wake := s.part.power.wake.map fun _ => ⟨false⟩ }
    (s.part.power.state = .park → exec .storeGoodFall s = .next (s.withPart u.refreshErase))
    ∧ (s.part.power.state ≠ .park → ∃ t, exec .storeGoodFall s = .next t
        ∧ t = s.withPart (((u.dropIdentifies).loseSupply).mountProgress.refreshErase) ∧ t.part.seen.storeGood = false
        ∧ (∀ l, s.part.present l = true → t.part.lane l = { s.part.lane l with
              state := .offline, inFlight := none, heldBack := none, waiting := .empty, linkDriven := false })
        ∧ (∀ l, (s.part.lane l).identifying = true → (t.part.mount.lanes.get l).identEnded = true
              ∧ t.part.lane l = { s.part.lane l with
                  state := .absent, count := 0, inFlight := none, heldBack := none, waiting := .empty })
        ∧ (∀ l, s.part.present l = false → (s.part.lane l).identifying = false →
              (t.part.lane l).state = (s.part.lane l).state)
        ∧ ((∃ l, s.part.present l = true) → t.part.bus.sticky &&& 0x04 = 0x04)))
  ∧ (∀ (s : State) (l : Lane) (f : InFlight), s.part.live = true → (s.part.lane l).inFlight = some f →
    (f.op ≠ .identify → ∃ t, exec (.timeLimitExpiry l) s = .next t
        ∧ t = s.withPart ((s.part.loseLanes [l] .laneTimeout).refreshErase)
        ∧ t.part.lane l = { s.part.lane l with
            state := .offline, inFlight := none, heldBack := none, waiting := .empty, linkDriven := false }
        ∧ t.part.bus.sticky &&& 0x04 = 0x04)
    ∧ (f.op = .identify → ∃ t, exec (.timeLimitExpiry l) s = .next t
        ∧ t = s.withPart ((s.part.becomeAbsent l).mountProgress.refreshErase)
        ∧ t.part.lane l = { s.part.lane l with
            state := .absent, count := 0, inFlight := none, heldBack := none, waiting := .empty }
        ∧ (t.part.mount.lanes.get l).identEnded = true
        ∧ (∀ other, s.part.mount.state = .mounting → s.part.mount.step = .identify → other ≠ l →
            (s.part.mount.lanes.get other).identEnded = false →
            (∀ k, k ≠ l → (t.part.lane k).state = (s.part.lane k).state ∧ (t.part.lane k).inFlight = (s.part.lane k).inFlight)
            ∧ t.part.mount.step = .identify ∧ t.part.bus = s.part.bus ∧ t.part.mem = s.part.mem ∧ t.part.orders = s.part.orders
            ∧ t.part.dir = s.part.dir ∧ t.part.segs = s.part.segs ∧ t.part.head = s.part.head)))
  ∧ (∀ (p : Part) (l : Lane), p.becomeAbsent l = { p with
      lanes := p.lanes.set l { p.lane l with state := .absent, count := 0, inFlight := none, heldBack := none, waiting := .empty },
      mount.lanes := p.mount.lanes.set l { p.mount.lanes.get l with identEnded := true } })
  ∧ (∀ p : Part,
    (∀ l, p.dropIdentifies.lane l = if (p.lane l).identifying then
        { p.lane l with state := .absent, count := 0, inFlight := none, heldBack := none, waiting := .empty } else p.lane l)
    ∧ (∀ l, p.dropIdentifies.mount.lanes.get l = if (p.lane l).identifying then
        { p.mount.lanes.get l with identEnded := true } else p.mount.lanes.get l)
    ∧ { p.dropIdentifies with lanes := p.lanes, mount.lanes := p.mount.lanes } = p
    ∧ p.loseSupply = p.loseLanes (([0, 1, 2, 3] : List Lane).filter fun l => p.present l) .laneOffline)
  ∧ (∀ r : LaneRec, r.identifying = true ↔ r.state = .unknown
      ∧ ((∃ f, r.inFlight = some f ∧ f.op = .identify) ∨ ∃ q, r.waiting.mount = some q ∧ q.op = .identify))
  ∧ (∀ (p : Part) (lost : List Lane) (why : Reason),
    let e := fun rq => lost.findSome? fun l => (p.lane l).ended why rq
    p.loseLanes [] why = p
    ∧ (lost ≠ [] → p.loseLanes lost why
      = Part.headLoses (e .head) (Part.scanLoses (e .scan) (Part.recordLoses (e .record)
          (Part.mountLoses lost (p.tablesLose lost))))))
  ∧ (∀ (r : LaneRec) (why : Reason) (rq : Requester),
    (∀ op ms, r.inFlight = some ⟨rq, op, ms, false⟩ → r.ended why rq = some why)
    ∧ (∀ q, r.flier ≠ some rq → r.waiting.get rq = some q → r.ended why rq = some .laneOffline)
    ∧ (r.flier ≠ some rq → r.waiting.get rq = none → r.ended why rq = none)
    ∧ (∀ op ms, r.inFlight = some ⟨rq, op, ms, true⟩ → rq ∈ [Requester.record, .scan, .reclaim] →
        r.waiting.get rq = none → r.ended why rq = r.heldBack.map fun _ => .laneOffline))
  ∧ (∀ (p : Part) (lost : List Lane),
    let q := ((p.dropLanes lost).raise .laneOffline).abandonHead lost
    let r := if q.freeCount < p.freeCount then q.compareLow else q
    p.tablesLose lost = ((r.lostErases lost).foldl (fun x a => x.reportErase a .neither) r).reclaimLoses lost
    ∧ (∀ l, (p.dropLanes lost).lane l = if l ∈ lost then { p.lane l with
          state := .offline, inFlight := none, heldBack := none, waiting := .empty, linkDriven := false } else p.lane l)
    ∧ { p.dropLanes lost with lanes := p.lanes } = p
    ∧ p.raise .laneOffline = { p with bus.sticky := p.bus.sticky ||| 0x04 }
    ∧ (∀ a e, p.headSeg = some (a, e) → a.lane ∈ lost → p.abandonHead lost = Part.releaseIfClosed a
        { p.modSeg a (fun e => { e with state := .closed, trailered := false }) with head.recordsInHead := 0 })
    ∧ ((∀ a e, p.headSeg = some (a, e) → a.lane ∉ lost) → p.abandonHead lost = p)
    ∧ (∀ x, x ∈ p.lostErases lost ↔ ∃ e, (x, e) ∈ p.entries ∧ (e.state = .eraseWait ∨ e.state = .erasing) ∧ x.lane ∈ lost)
    ∧ (∀ a, p.reclaim.tail = some a → a.lane ∈ lost → p.reclaimLoses lost = p.haltReclaim)
    ∧ ((∀ a, p.reclaim.tail = some a → a.lane ∉ lost) → p.reclaimLoses lost = p.recheckCopyWait)
    ∧ (p.mount.state ≠ .mounting → p.mountLoses lost = p)
    ∧ (p.mount.state = .mounting → (p.mount.step = .identify ∨ p.mount.step = .headers) →
        p.mountLoses lost = (lost.foldl (fun x l => x.loseHeaders l) p).mountProgress)
    ∧ (p.mount.state = .mounting → p.mount.step = .records → p.mountLoses lost = p.loseWalk.mountProgress))
  ∧ ∀ (p : Part) (why : Reason),
    (p.recordLoses none = p ∧ p.scanLoses none = p ∧ p.headLoses none = p)
    ∧ (∀ (o : RecordOrder) (g : GetRead), p.record = some o → o.step = .reading g →
      p.recordLoses (some why) = Part.finishRecord
        { faultResult why with sequence := g.entry.sequence, length := BitVec.ofNat 16 g.entry.length } (p.releaseReader g.holds))
    ∧ (∀ (o : ScanOrder) (h : ScanHand), p.scan = some o → o.inHand = some h → p.scanLoses (some why) = Part.scanBoundary
        { p.releaseReader h.holds with scan := some { o with
          damaged := min 255 (o.damaged + 1), examined := min 65535 (o.examined + 1), cursor := h.entry.key + 1, inHand := none } })
    ∧ (∀ (a : Append), p.head.append = some a → (why = .laneTimeout ∨ why = .laneOffline) →
        let onward := fun q : Part => match a.setBack with
          | some cause => q.setBackNow cause a
          | none => q.openSegment a
        (∀ sg first r, a.step = .programming sg first → a.work = .order r → p.headLoses (some why) = Part.finishRecord
          { faultResult why with retried := a.repeated, sequence := a.sequence } { p with head.append := none })
        ∧ (∀ sg first c, a.step = .programming sg first → a.work = .copy c →
            p.headLoses (some why) = Part.copyAnswer .laneLost { p with head.append := none })
        ∧ (∀ sg, a.step = .opening sg → p.headLoses (some why) = onward
            (p.modSeg sg fun e => { e with state := .eraseWait, retire := true }))
        ∧ (∀ sg cause, a.step = .closing sg cause → (p.seg sg).state ≠ .head →
            let closed : Part := { p.modSeg sg (fun e => { e with
                state := .closed, trailered := false, retire := e.retire || decide (cause ≠ .noRoom) }) with head.recordsInHead := 0 }
            p.headLoses (some why) = if cause = .secondFailure then closed.endAppend .programFault a else onward closed))

/-- CLOCK_STOP in PARK: STOPPED, a wake abandoned, LANE_PWR deasserted, and in the serial mode SDO released with a transaction
under way ignored to its end (log 12); elsewhere the power state does not change. CLOCK_RETURN in STOPPED starts the return count;
elsewhere the three inputs are taken as they stand (log 11). RETURN_COUNT_END makes the state PARK, the inputs seen as they stand
(log 11), with a wake begun when the PARK level is 0. A part in STOPPED, as one whose clock is stopped or whose RESET_N is low,
takes no event: every command that is an event inside the part changes nothing, and a change of an input changes its pin alone
(R184, R186, R92; log 1). To take the inputs as they stand is to see each at its level, as its own command sees a change, in the
order PWARN, WINH, STORE_GOOD (log 11). -/
def Obligations.ClockStopsAndReturns : Prop :=
  (∀ s : State, s.part.power.resetLow = false →
    (s.part.power.state = .park → exec .clockStop s = .next { s with
        part.power.state := .stopped, part.power.wake := none, part.power.clockRunning := false,
        part.power.returnCounting := false,
        part.bus.serial := if s.part.busMode = .serial then s.part.bus.serial.afterReset else s.part.bus.serial,
        part.bus.dataOut := if s.part.busMode = .serial then none else s.part.bus.dataOut })
    ∧ (s.part.power.state = .park → ∀ t, exec .clockStop s = .next t → t.part.lanePwr = false)
    ∧ (s.part.power.state ≠ .park → exec .clockStop s = .next { s with
        part.power.clockRunning := false, part.power.returnCounting := false })
    ∧ (s.part.power.state = .stopped → s.part.power.clockRunning = false → exec .clockReturn s = .next { s with
        part.power.clockRunning := true, part.power.returnCounting := true })
    ∧ (s.part.power.state ≠ .stopped → s.part.power.clockRunning = false → exec .clockReturn s = .next
        (s.withPart ((Part.seeInputs { s.part with power.clockRunning := true }).refreshErase)))
    ∧ (s.part.power.clockRunning = true → exec .clockReturn s = .next s)
    ∧ (s.part.power.state = .stopped → s.part.power.clockRunning = true → s.part.power.returnCounting = true →
        (∃ t, exec .returnCountEnd s = .next t ∧ t.part.power.state = .park ∧ t.part.seen = s.part.pins
          ∧ t.part.power.returnCounting = false
          ∧ (s.part.bus.parkLevel = false → t.part.power.wake.isSome = true)
          ∧ (s.part.bus.parkLevel = true → s.part.power.wake = none → t.part.power.wake = none))
        ∧ (s.part.power.wake = none → s.part.head.append = none → s.part.mount.settle = false →
            exec .returnCountEnd s = .next (s.withPart (Part.refreshErase { s.part with
              seen := s.part.pins, power.state := .park, power.returnCounting := false,
              power.wake := if s.part.bus.parkLevel then none else some ⟨s.part.pins.storeGood⟩ })))))
  ∧ (∀ b : Serial, (b = .idle → b.afterReset = .idle) ∧ (b ≠ .idle → b.afterReset = .ignoring))
  ∧ (∀ s : State, (s.part.power.state = .stopped ∨ s.part.power.clockRunning = false ∨ s.part.power.resetLow = true) →
      (∀ c : Instr, isInside c = true → c.wf = true → exec c s = .next s)
      ∧ exec .pwarnAssert s = .next { s with part.pins.pwarn := true }
      ∧ exec .pwarnDeassert s = .next { s with part.pins.pwarn := false }
      ∧ exec .winhAssert s = .next { s with part.pins.winh := true }
      ∧ exec .winhDeassert s = .next { s with part.pins.winh := false }
      ∧ exec .storeGoodRise s = .next { s with part.pins.storeGood := true }
      ∧ exec .storeGoodFall s = .next { s with part.pins.storeGood := false })
  ∧ (∀ p : Part, p.seeInputs = ((p.seePwarn p.pins.pwarn).seeWinh p.pins.winh).seeStoreGood p.pins.storeGood)
  ∧ ∀ s : State, s.part.live = true →
    let answers := fun (p : Part) => (Host.Outcome.next (s.withPart p.refreshErase) : Host.Outcome State Fault Refusal)
    exec .pwarnAssert s = answers (Part.seePwarn true { s.part with pins.pwarn := true })
      ∧ exec .pwarnDeassert s = answers (Part.seePwarn false { s.part with pins.pwarn := false })
      ∧ exec .winhAssert s = answers (Part.seeWinh true { s.part with pins.winh := true })
      ∧ exec .winhDeassert s = answers (Part.seeWinh false { s.part with pins.winh := false })
      ∧ exec .storeGoodRise s = answers (Part.seeStoreGood true { s.part with pins.storeGood := true })
      ∧ exec .storeGoodFall s = answers (Part.seeStoreGood false { s.part with pins.storeGood := false })

/-! ## Lanes -/

/-- The store link and the lane arbiter. The request frames of R59: operation code, segment index and line index low byte first, the
line's bytes, each byte most significant bit first. Which waiting request is grantable, by requester, power state and WINH (the
table of R67). The fixed cycle of R66: the requester granted comes last in the next search. LANE_GRANT on a lane with nothing in
flight: the requester granted is the first with a grantable request in that cycle; its request leaves the queue and is in flight
with its time limit (IDENTIFY 2, READ LINE 1, PROGRAM LINE 6, ERASE SEGMENT 80 ms), it becomes the last granted, the link is
driven, and a granted erase takes its segment into ERASING, epoch 0; nothing else of the part changes but the erase requests
(R35, R44, R60, R66, R68). The erase requests that stand after every act: a waiting one stands while its segment is eligible;
otherwise, with no erase in flight on the lane, the eligible segment of lowest index is requested, and none when none is eligible;
eligible is what R44 lists, an UNSWEPT segment only once mount has ended MOUNTED or DEGRADED (R38, R44). -/
def Obligations.LaneGrantIssues : Prop :=
  ((∀ (seg line : Nat) (bytes : List Byte), seg < 65536 → line < 256 →
    StoreOp.requestFrame .identify = [0x51]
      ∧ StoreOp.requestFrame (.readLine seg line)
          = [0x52, BitVec.ofNat 8 seg, BitVec.ofNat 8 (seg / 256), BitVec.ofNat 8 line]
      ∧ StoreOp.requestFrame (.programLine seg line bytes)
          = [0x53, BitVec.ofNat 8 seg, BitVec.ofNat 8 (seg / 256), BitVec.ofNat 8 line] ++ bytes
      ∧ StoreOp.requestFrame (.eraseSegment seg) = [0x54, BitVec.ofNat 8 seg, BitVec.ofNat 8 (seg / 256)])
  ∧ (∀ (b : Byte) (rest : List Byte), frameBits (b :: rest)
      = [b.getLsbD 7, b.getLsbD 6, b.getLsbD 5, b.getLsbD 4, b.getLsbD 3, b.getLsbD 2, b.getLsbD 1, b.getLsbD 0] ++ frameBits rest)
  ∧ (∀ (p : Part) (r : Request),
    p.grantable .mount r = true
      ∧ (∀ rq ∈ [Requester.record, .scan, .reclaim], p.grantable rq r = decide (p.power.state = .active))
      ∧ (r.continuing = true → p.grantable .head r = true)
      ∧ (r.continuing = false → p.grantable .head r = (decide (p.power.state = .active) && !p.seen.winh))
      ∧ p.grantable .erase r = (decide (p.power.state = .active) && !p.seen.winh))
  ∧ (let cycle : List Requester := [.mount, .record, .scan, .reclaim, .head, .erase]
    ∀ rq : Requester, ∃ k, k < 6 ∧ cycle[k]? = some rq ∧ rq.after = cycle.drop (k + 1) ++ cycle.take (k + 1)))
  ∧ (∀ (s : State) (l : Lane) (rq : Requester) (r : Request), s.part.live = true →
    (s.part.lane l).inFlight = none → (s.part.lane l).waiting.get rq = some r → s.part.grantable rq r = true →
    (∀ k, k < ((s.part.lane l).lastGranted.after).idxOf rq → ∀ other r',
      ((s.part.lane l).lastGranted.after)[k]? = some other → (s.part.lane l).waiting.get other = some r' →
      s.part.grantable other r' = false) →
    ∃ t, exec (.laneGrant l) s = .next t
      ∧ (t.part.lane l).inFlight = some ⟨rq, r.op, r.op.limitMs, false⟩ ∧ (t.part.lane l).lastGranted = rq
      ∧ (rq ≠ .erase → (t.part.lane l).waiting.get rq = none) ∧ (t.part.lane l).linkDriven = true
      ∧ (t.part.lane l).state = (s.part.lane l).state ∧ (t.part.lane l).count = (s.part.lane l).count
      ∧ (t.part.lane l).heldBack = (s.part.lane l).heldBack
      ∧ (∀ other, other ≠ rq → other ≠ .erase → (t.part.lane l).waiting.get other = (s.part.lane l).waiting.get other)
      ∧ (∀ k, k ≠ l → { t.part.lane k with waiting.erase := (s.part.lane k).waiting.erase } = s.part.lane k)
      ∧ (∀ i, r.op = .eraseSegment i →
          t.part.segs = (s.part.modSeg ⟨l, i⟩ fun e => { e with state := .erasing, epoch := 0 }).segs)
      ∧ ((∀ i, r.op ≠ .eraseSegment i) → t.part.segs = s.part.segs)
      ∧ { t.part with lanes := s.part.lanes, segs := s.part.segs, power.quietSeen := s.part.power.quietSeen } = s.part
      ∧ StoreOp.limitMs .identify = 2 ∧ (∀ a b, StoreOp.limitMs (.readLine a b) = 1)
      ∧ (∀ a b c, StoreOp.limitMs (.programLine a b c) = 6) ∧ (∀ a, StoreOp.limitMs (.eraseSegment a) = 80))
  ∧ (∀ (p : Part) (l : Lane),
    let stands := ∃ i c, (p.lane l).waiting.erase = some ⟨.eraseSegment i, c⟩ ∧ p.eligible ⟨l, i⟩ (p.seg ⟨l, i⟩) = true
    let after := (p.refreshErase.lane l).waiting.erase
    { p.refreshErase with lanes := p.lanes } = p
    ∧ { p.refreshErase.lane l with waiting.erase := (p.lane l).waiting.erase } = p.lane l
    ∧ (stands → after = (p.lane l).waiting.erase)
    ∧ (¬ stands → (p.lane l).flier = some .erase → after = none)
    ∧ (¬ stands → (p.lane l).flier ≠ some .erase →
        (∀ i, p.eligible ⟨l, i⟩ (p.seg ⟨l, i⟩) = true → (∀ j, j < i → p.eligible ⟨l, j⟩ (p.seg ⟨l, j⟩) = false) →
          after = some ⟨.eraseSegment i, false⟩)
        ∧ ((∀ i, p.eligible ⟨l, i⟩ (p.seg ⟨l, i⟩) = false) → after = none))
    ∧ ((p.lane l).flier ≠ some .erase → (after ≠ none ↔ ∃ x ∈ p.entries, x.1.lane = l ∧ p.eligible x.1 x.2 = true)))
  ∧ ∀ (p : Part) (a : SegAddr) (e : SegEntry),
      p.eligible a e = true ↔ (e.state = .eraseWait ∨ (e.state = .unswept ∧ p.mounted = true)) ∧ e.readers = 0
        ∧ p.seen.winh = false ∧ p.power.state = .active ∧ p.present a.lane = true
        ∧ (e.state = .eraseWait → e.epoch ≠ 0 → ∀ x ∈ p.entries, x.1 ≠ a → x.2.state = .eraseWait → x.2.epoch ≠ 0 →
            x.2.epoch < e.epoch → p.present x.1.lane = false)

/-- IDENTIFY_END: a count from 16 to 1,024 makes the lane PRESENT with that count and one UNSWEPT entry for each of its segments;
any other count makes it ABSENT with count 0; its IDENTIFY has ended and the mount engine takes stock (R58, R61, R166). With other
lanes still to answer the step stays. The last of the four ends it: with no lane having become PRESENT the mount ends FAILED with
code 3, otherwise the step becomes headers and the engine takes stock again (R166, R173); that a lane lost since counts as having
become PRESENT is the model's reading (log 33). -/
def Obligations.IdentifyEnds : Prop :=
  (∀ (s : State) (l other : Lane) (lo hi : Byte) (rq : Requester) (ms : Nat) (disc : Bool), s.part.live = true →
    (s.part.lane l).inFlight = some ⟨rq, .identify, ms, disc⟩ → s.part.mount.step = .identify →
    s.part.mount.state = .mounting → other ≠ l → (s.part.mount.lanes.get other).identEnded = false →
    let count := lo.toNat + 256 * hi.toNat
    ∃ t, exec (.identifyEnd l lo hi) s = .next t ∧ (t.part.lane l).inFlight = none
      ∧ (t.part.mount.lanes.get l).identEnded = true
      ∧ (16 ≤ count → count ≤ 1024 → (t.part.lane l).state = .present ∧ (t.part.lane l).count = count
          ∧ t.part.segs.get l = List.replicate count (SegEntry.cleared .unswept))
      ∧ ((count < 16 ∨ 1024 < count) → (t.part.lane l).state = .absent ∧ (t.part.lane l).count = 0 ∧ t.part.segs = s.part.segs)
      ∧ (∀ k, k ≠ l → (t.part.lane k).state = (s.part.lane k).state ∧ t.part.segs.get k = s.part.segs.get k)
      ∧ t.part.mem = s.part.mem ∧ t.part.orders = s.part.orders ∧ t.part.dir = s.part.dir ∧ t.part.head = s.part.head
      ∧ t.part.bus = s.part.bus ∧ t.part.reclaim = s.part.reclaim ∧ t.part.power = s.part.power)
  ∧ (∀ (s : State) (l : Lane) (lo hi : Byte) (rq : Requester) (ms : Nat) (disc : Bool), s.part.live = true →
    (s.part.lane l).inFlight = some ⟨rq, .identify, ms, disc⟩ →
    let count := lo.toNat + 256 * hi.toNat
    let r := (s.part.landed l).lane l
    let ended := s.part.mount.lanes.set l { s.part.mount.lanes.get l with identEnded := true }
    (16 ≤ count → count ≤ 1024 → exec (.identifyEnd l lo hi) s = .next (s.withPart (Part.refreshErase (Part.mountProgress
        { s.part with
          lanes := s.part.lanes.set l { r with state := .present, count := count },
          segs := s.part.segs.set l (List.replicate count (SegEntry.cleared .unswept)), mount.lanes := ended }))))
    ∧ ((count < 16 ∨ 1024 < count) → exec (.identifyEnd l lo hi) s = .next (s.withPart (Part.refreshErase (Part.mountProgress
        { s.part with lanes := s.part.lanes.set l { r with state := .absent, count := 0 }, mount.lanes := ended })))))
  ∧ ∀ p : Part, p.mount.state = .mounting → p.mount.step = .identify → (∀ l, (p.mount.lanes.get l).identEnded = true) →
      ((∀ l, (p.lane l).state ≠ .present ∧ (p.lane l).state ≠ .offline) → p.mountProgress = p.failMount 3)
      ∧ ((∃ l, (p.lane l).state = .present ∨ (p.lane l).state = .offline) →
          p.mountProgress = Part.mountProgress { p with mount.step := .headers })

/-- READ_LINE_END of a line of a GET. The first line is judged before any byte is written: a failed header check ends the order
HEADER_CHECK, a header that does not agree with the entry and its segment's epoch STALE_TAG. Otherwise the line's payload bytes go
to their place in the buffer and the payload check runs on; short of the last line the next one is asked for; at the last the
order ends OK, or DATA_CHECK when the check fails. Sequence and payload length are the entry's, and an order's end releases the
segment's readers count (R53, R71, R120, R121). A result its requester discards, of the record, the scan or the reclaim unit,
changes nothing but the lane, where a request held back for it then waits (R65, R73). Where a record's payload and its four check
bytes lie in its lines, and the payload check over them (R5, R7). -/
def Obligations.ReadLineEndsGet : Prop :=
  (∀ (s : State) (l : Lane) (bytes : List Byte) (seg line ms : Nat) (rq : Requester), s.part.live = true → bytes.length = 256 →
    (s.part.lane l).inFlight = some ⟨rq, .readLine seg line, ms, true⟩ →
      exec (.readLineEnd l bytes) s = .next (s.withPart ((s.part.landed l).refreshErase)))
  ∧ (∀ (p : Part) (l : Lane),
    ((p.lane l).heldBack = none → p.landed l = p.setLane l { p.lane l with inFlight := none })
    ∧ ∀ (rq : Requester) (op : StoreOp) (ms : Nat) (q : Request), rq ∈ [Requester.record, .scan, .reclaim] →
        (p.lane l).inFlight = some ⟨rq, op, ms, true⟩ → (p.lane l).heldBack = some q →
        p.landed l = p.setLane l
          { p.lane l with inFlight := none, heldBack := none, waiting := (p.lane l).waiting.set rq (some q) })
  ∧ (∀ r : PayloadRun, (r.ok = true ↔ r.stored = leBytes 4 (~~~ r.crc).toNat) ∧ PayloadRun.start = ⟨0xFFFFFFFF, []⟩
    ∧ ∀ (length j : Nat) (bytes : List Byte),
      let after := 16 + length - 256 * j
      r.feed length j bytes = ⟨crc32Feed r.crc (payloadOf length j bytes),
        r.stored ++ (bytes.drop after).take (16 + length + 4 - (256 * j + after))⟩)
  ∧ (∀ (length j : Nat) (bytes : List Byte), payloadStart j = 256 * j - 16
    ∧ payloadOf length j bytes = (bytes.drop (if j = 0 then 16 else 0)).take
        (min (length - (256 * j - 16)) (if j = 0 then 240 else 256)))
  ∧ ∀ (s : State) (l : Lane) (bytes : List Byte) (seg line ms : Nat) (o : RecordOrder) (g : GetRead), s.part.live = true →
    bytes.length = 256 → (s.part.lane l).inFlight = some ⟨.record, .readLine seg line, ms, false⟩ → s.part.record = some o →
    o.step = .reading g →
    let p := s.part.landed l
    let a := g.entry.loc.addr
    let agrees := recordAgrees g.entry (s.part.seg a).epoch bytes
    let judged := 0 < g.next ∨ (headerCheckOk bytes = true ∧ agrees)
    let payload := payloadOf g.entry.length g.next bytes
    let stored := p.store (o.fields.bufOffset.toNat + payloadStart g.next) payload
    let run := g.run.feed g.entry.length g.next bytes
    let answers := fun r : Part => exec (.readLineEnd l bytes) s = .next (s.withPart r.refreshErase)
    let ends := fun (q : Part) (r : Result) => answers ((q.releaseReader g.holds).finishRecord
      { r with sequence := g.entry.sequence, length := BitVec.ofNat 16 g.entry.length })
    (g.next = 0 → headerCheckOk bytes = false → ends p (faultResult .headerCheck))
    ∧ (g.next = 0 → headerCheckOk bytes = true → ¬ agrees → ends p (faultResult .staleTag))
    ∧ (judged → g.entry.lines ≤ g.next + 1 → ends stored (if run.ok then okResult else faultResult .dataCheck))
    ∧ (judged → g.next + 1 < g.entry.lines →
        (s.part.present a.lane = true → answers (Part.place a.lane .record
          ⟨.readLine a.seg (g.entry.loc.line + (g.next + 1)), false⟩
          { stored with record := some { o with step := .reading { g with
              next := g.next + 1, delivered := g.delivered + payload.length, run := run } } }))
        ∧ (s.part.present a.lane = false → ends stored (faultResult .laneOffline)))

/-- READ_LINE_END of a line of the reclaim walk at a record position. Blank or a broken header: the unit halts while the tail has
claimed lines. Header-valid and unclaimed: the walk position moves past the record. Claimed by a GONE entry: the entry is removed
and the tail's claimed lines fall by one. Claimed by a LIVE entry: the next line is asked for, or, of one line only, the copy is
submitted to the head writer (R22, R27, R152, R153, R154). A further line of the record in hand is kept with the lines before it:
the next line is asked for, or after the last the copy is submitted with all of them (R126, R152, R153). -/
def Obligations.ReadLineEndsWalk : Prop :=
  (∀ (s : State) (l : Lane) (bytes : List Byte) (seg line ms : Nat) (a : SegAddr), s.part.live = true → bytes.length = 256 →
    (s.part.lane l).inFlight = some ⟨.reclaim, .readLine seg line, ms, false⟩ → s.part.reclaim.tail = some a →
    s.part.reclaim.inHand = none →
    let p := s.part.landed l
    let n := s.part.reclaim.pos
    let h := readHeader bytes
    let k := lineCount h.length
    let good := blankLine bytes = false ∧ headerValid (s.part.seg a).epoch n bytes = true
    (¬ good → 0 < (s.part.seg a).claimed → exec (.readLineEnd l bytes) s = .next (s.withPart p.haltReclaim.refreshErase))
    ∧ (good → (∀ x, dirLookup s.part.dir h.key = some x → x.loc ≠ ⟨a, n⟩) → exec (.readLineEnd l bytes) s = .next
        (s.withPart (Part.refreshErase (Part.walk { p with reclaim.inHand := none, reclaim.pos := n + k }))))
    ∧ ∀ x, good → dirLookup s.part.dir h.key = some x → x.loc = ⟨a, n⟩ →
        (x.gone = true → exec (.readLineEnd l bytes) s = .next (s.withPart (Part.refreshErase (Part.walk
          { Part.modSeg a (fun e => { e with claimed := e.claimed - 1 }) { p with dir := dirRemove h.key p.dir } with
            reclaim.inHand := none, reclaim.pos := n + k }))))
        ∧ (x.gone = false → 1 < k → exec (.readLineEnd l bytes) s = .next (s.withPart (Part.refreshErase
            (Part.place a.lane .reclaim ⟨.readLine a.seg (n + 1), false⟩
              { p with reclaim.inHand := some ⟨h, n, k, 1, bytes⟩ }))))
        ∧ (x.gone = false → k ≤ 1 → exec (.readLineEnd l bytes) s = .next (s.withPart (Part.refreshErase
            { p with
              reclaim.inHand := some ⟨h, n, k, 1, bytes⟩, reclaim.copyWait := false,
              head.copyReq := some ⟨h.key, h.sequence, h.length, k, ⟨a, n⟩, bytes⟩ }))))
  ∧ ∀ (s : State) (l : Lane) (bytes : List Byte) (seg line ms : Nat) (a : SegAddr) (h : Hand), s.part.live = true →
    bytes.length = 256 → (s.part.lane l).inFlight = some ⟨.reclaim, .readLine seg line, ms, false⟩ →
    s.part.reclaim.tail = some a → s.part.reclaim.inHand = some h →
    let p := s.part.landed l
    let all := h.bytes ++ bytes
    (h.got + 1 < h.lines → exec (.readLineEnd l bytes) s = .next (s.withPart (Part.refreshErase
        (Part.place a.lane .reclaim ⟨.readLine a.seg (h.first + (h.got + 1)), false⟩
          { p with reclaim.inHand := some ⟨h.header, h.first, h.lines, h.got + 1, all⟩ }))))
    ∧ (h.lines ≤ h.got + 1 → exec (.readLineEnd l bytes) s = .next (s.withPart (Part.refreshErase
        { p with
          reclaim.inHand := some ⟨h.header, h.first, h.lines, h.got + 1, all⟩, reclaim.copyWait := false,
          head.copyReq := some ⟨h.header.key, h.header.sequence, h.header.length, h.lines, ⟨a, h.first⟩, all⟩ })))

/-- The comparison of R142: unsigned bytes from the lowest offset, the first that differ decide; taken line by line over a record's
payload it is the comparison of the whole field with the pattern; each mode's answer.
READ_LINE_END of a line of the entry a SCAN has in hand. The first line is judged first: a failed header check, or a header that
does not agree with the entry and its segment's epoch, counts the entry damaged. Otherwise the payload check and the comparison run
on over the line; short of the last line the next one is asked for; at the last a failed payload check counts the entry damaged, a
comparison that does not answer, or a field beyond the payload, counts it examined and writes nothing, a hit writes its result
entry of key and the sequence read, and a hit that finds no room ends the scan PARTIAL / AREA_FULL with its key as resume key and
the counts as they stood. An entry's read ended, its readers count is released and the cursor stands one above the key, and the
unit acts at the entry boundary (R53, R71, R94, R138, R140 to R143, R147). -/
def Obligations.ReadLineEndsScan : Prop :=
  ((∀ xs ys : List Byte, xs.length = ys.length →
    (compareBytes xs ys = .eq ↔ xs = ys)
    ∧ (compareBytes xs ys = .lt ↔ ∃ (i : Nat) (x y : Byte), xs.take i = ys.take i ∧ xs[i]? = some x ∧ ys[i]? = some y
        ∧ x.toNat < y.toNat))
  ∧ (∀ c, (modeHit 1 c = true ↔ c = .eq) ∧ (modeHit 2 c = true ↔ c ≠ .lt) ∧ (modeHit 3 c = true ↔ c ≠ .gt)
      ∧ (modeHit 4 c = true ↔ c ≠ .eq))
  ∧ (∀ (f : OrderFields) (payload : List Byte), payload.length ≤ 4076 → f.patLength.toNat ≤ f.pattern.length →
    f.cmpOffset.toNat + f.patLength.toNat ≤ payload.length →
    (List.range (lineCount payload.length)).foldl (fun c j => f.compareLine j
        ((payload.drop (payloadStart j)).take (payloadCount payload.length j)) c) .eq
      = compareBytes ((payload.drop f.cmpOffset.toNat).take f.patLength.toNat) (f.pattern.take f.patLength.toNat)))
  ∧ (∀ (s : State) (l : Lane) (bytes : List Byte) (seg line ms : Nat) (o : ScanOrder) (h : ScanHand), s.part.live = true →
    bytes.length = 256 → (s.part.lane l).inFlight = some ⟨.scan, .readLine seg line, ms, false⟩ → s.part.scan = some o →
    o.inHand = some h →
    let p := s.part.landed l
    let q := p.releaseReader h.holds
    let a := h.entry.loc.addr
    let judged := h.headerJudged = true
      ∨ (headerCheckOk bytes = true ∧ recordAgrees h.entry (s.part.seg a).epoch bytes)
    let sequence := if h.headerJudged then h.readSequence else (readHeader bytes).sequence
    let run := h.run.feed h.entry.length h.next bytes
    let c := o.fields.compareLine h.next (payloadOf h.entry.length h.next bytes) h.compare
    let hit := o.fields.cmpOffset.toNat + o.fields.patLength.toNat ≤ h.entry.length ∧ modeHit o.fields.mode c = true
    let passed : ScanOrder := { o with examined := min 65535 (o.examined + 1), cursor := h.entry.key + 1, inHand := none }
    let answers := fun r : Part => exec (.readLineEnd l bytes) s = .next (s.withPart r.refreshErase)
    let damaged := answers (Part.scanBoundary { q with scan := some { passed with damaged := min 255 (o.damaged + 1) } })
    (¬ judged → damaged)
    ∧ (judged → h.next + 1 < h.entry.lines →
        (s.part.present a.lane = true → answers (Part.place a.lane .scan ⟨.readLine a.seg (h.entry.loc.line + (h.next + 1)), false⟩
          { p with scan := some { o with inHand := some { h with
              next := h.next + 1, headerJudged := true, readSequence := sequence, run := run, compare := c } } }))
        ∧ (s.part.present a.lane = false → damaged))
    ∧ (judged → h.entry.lines ≤ h.next + 1 →
        (run.ok = false → damaged)
        ∧ (run.ok = true → ¬ hit → answers (Part.scanBoundary { q with scan := some passed }))
        ∧ (run.ok = true → hit → o.hits < o.fields.bufLength.toNat / 8 → answers (Part.scanBoundary
            { q.store (o.fields.bufOffset.toNat + 8 * o.hits) (leBytes 4 h.entry.key.toNat ++ leBytes 4 sequence.toNat) with
              scan := some { passed with hits := o.hits + 1 } }))
        ∧ (run.ok = true → hit → o.fields.bufLength.toNat / 8 ≤ o.hits → answers (Part.complete o.slot
            ⟨.partly, .areaFull, false, decide (1 ≤ o.damaged), 0, BitVec.ofNat 16 o.hits, BitVec.ofNat 16 o.examined, h.entry.key,
              BitVec.ofNat 8 o.damaged⟩ { q with scan := none }))))

/-- The header step. READ_LINE_END of line 0, with a segment after it on its lane: a valid header makes the segment CLOSED with
the header's epoch and line 127 is asked for; a blank line leaves it UNSWEPT so far and line 1 is asked for; any other contents
leave it as it is, count it damaged, and line 0 of the next segment is asked for; line 0 of a lane's last segment is judged in the
same way (R6, R167). READ_LINE_END of a further line: a valid trailer of the header's epoch gives trailered, its good end and used
lines good end - 1, its record count kept, any other contents untrailered, good end 1, used lines 0; above a blank line 0 a line
not blank counts the segment damaged, its state as it is, and line 127 blank makes it FREE (R10, R167). A PRESENT lane begins
while others are still identified (R166): its lines are judged alike in both steps, and after each the engine takes stock: the
next request of each lane is placed, and the header step ends when every PRESENT lane has all its segments judged. It ends FAILED
with code 3 when there is no chain member and no lane PRESENT (R166, R173), with code 4 when two members have one epoch (R168);
else the records step begins. Each lane lost before that is dealt with, and then the engine takes stock: the segments not judged
count damaged, and one whose header was valid has good end 1 and used lines 126 (R171). -/
def Obligations.ReadLineEndsMount : Prop :=
  (∀ (s : State) (l : Lane) (bytes : List Byte) (i ms : Nat), s.part.live = true → bytes.length = 256 →
    (s.part.lane l).inFlight = some ⟨.mount, .readLine i 0, ms, false⟩ → (s.part.lane l).waiting.mount = none →
    (s.part.lane l).state = .present → s.part.mount.state = .mounting → s.part.mount.step = .headers →
    s.part.mount.lanes.get l = ⟨true, i, .line0⟩ → i + 1 < (s.part.lane l).count →
    i < (s.part.segs.get l).length → s.part.power.state ≠ .park →
    ∃ t, exec (.readLineEnd l bytes) s = .next t ∧ t.part.mem = s.part.mem ∧ t.part.dir = s.part.dir
      ∧ t.part.orders = s.part.orders
      ∧ (∀ epoch, judgeHeader ⟨l, i⟩ bytes = .valid epoch →
          (t.part.seg ⟨l, i⟩).state = .closed ∧ (t.part.seg ⟨l, i⟩).epoch = epoch ∧ (t.part.seg ⟨l, i⟩).claimed = 0
            ∧ (t.part.lane l).waiting.mount = some ⟨.readLine i 127, false⟩ ∧ t.part.mount.damaged = s.part.mount.damaged)
      ∧ (judgeHeader ⟨l, i⟩ bytes = .blank → t.part.segs = s.part.segs
            ∧ (t.part.lane l).waiting.mount = some ⟨.readLine i 1, false⟩ ∧ t.part.mount.damaged = s.part.mount.damaged)
      ∧ (judgeHeader ⟨l, i⟩ bytes = .invalid → t.part.segs = s.part.segs
            ∧ (t.part.lane l).waiting.mount = some ⟨.readLine (i + 1) 0, false⟩
            ∧ t.part.mount.damaged = s.part.mount.damaged + 1))
  ∧ (∀ (s : State) (l : Lane) (bytes : List Byte) (i n ms : Nat), s.part.live = true → bytes.length = 256 →
    (s.part.lane l).inFlight = some ⟨.mount, .readLine i n, ms, false⟩ →
    (s.part.mount.step = .identify ∨ s.part.mount.step = .headers) →
    exec (.readLineEnd l bytes) s = .next (s.withPart (((s.part.landed l).headerLine l bytes).mountProgress.refreshErase)))
  ∧ (∀ p : Part,
    let judged := ∀ l, p.present l = true → (p.lane l).count ≤ (p.mount.lanes.get l).nextSeg
    (p.mount.state ≠ .mounting → p.mountProgress = p)
    ∧ (p.mount.state = .mounting → p.mount.step = .identify → (∃ l, (p.mount.lanes.get l).identEnded = false) →
        p.mountProgress = p.placeMountAll)
    ∧ (p.mount.state = .mounting → p.mount.step = .headers → ¬ judged → p.mountProgress = p.placeMountAll)
    ∧ (p.mount.state = .mounting → p.mount.step = .headers → judged → p.mountProgress = p.endHeaders.placeMountAll)
    ∧ { p.placeMountAll with lanes := p.lanes } = p
    ∧ ((p.mount.step = .identify ∨ p.mount.step = .headers) → ∀ l, p.present l = true →
        let x := p.mount.lanes.get l
        let line := match x.sub with
          | .line0 => 0
          | .trailer _ => 127
          | .blank n => n
        let busy := p.power.state = .park ∨ p.power.state = .stopped ∨ (p.lane l).waiting.mount ≠ none ∨ (p.lane l).flier = some .mount
        (x.nextSeg < (p.lane l).count → ¬ busy →
          p.placeMountAll.lane l = { p.lane l with waiting.mount := some ⟨.readLine x.nextSeg line, false⟩ })
        ∧ ((p.lane l).count ≤ x.nextSeg ∨ busy → p.placeMountAll.lane l = p.lane l)))
  ∧ (∀ (p : Part) (lost : List Lane), p.mount.state = .mounting → (p.mount.step = .identify ∨ p.mount.step = .headers) →
    p.mountLoses lost = (lost.foldl (fun q l => q.loseHeaders l) p).mountProgress)
  ∧ (∀ (p : Part) (l : Lane) (i : Nat) (bytes : List Byte) (x : LaneMount), p.mount.lanes.get l = x → x.nextSeg = i →
    let next : Part := { p with mount.lanes := p.mount.lanes.set l { x with nextSeg := i + 1, sub := .line0 } }
    (x.sub = .line0 →
      (∀ epoch, judgeHeader ⟨l, i⟩ bytes = .valid epoch → p.headerLine l bytes =
        { p.modSeg ⟨l, i⟩ (fun e => { e with state := .closed, epoch := epoch, claimed := 0, readers := 0 }) with
          mount.lanes := p.mount.lanes.set l { x with sub := .trailer epoch } })
      ∧ (judgeHeader ⟨l, i⟩ bytes = .blank → p.headerLine l bytes =
        { p with mount.lanes := p.mount.lanes.set l { x with sub := .blank 1 } })
      ∧ (judgeHeader ⟨l, i⟩ bytes = .invalid → p.headerLine l bytes = { next with mount.damaged := p.mount.damaged + 1 }))
    ∧ (∀ epoch g n, x.sub = .trailer epoch → judgeTrailer epoch bytes = some (g, n) →
      p.headerLine l bytes = Part.modSeg ⟨l, i⟩ (fun e => { e with trailered := true, goodEnd := g, used := g - 1 })
        { next with mount.kept := p.mount.kept ++ [(⟨l, i⟩, n)] })
    ∧ (∀ epoch, x.sub = .trailer epoch → judgeTrailer epoch bytes = none →
      p.headerLine l bytes = next.modSeg ⟨l, i⟩ fun e => { e with trailered := false, goodEnd := 1, used := 0 })
    ∧ (∀ n, x.sub = .blank n → blankLine bytes = false →
      p.headerLine l bytes = { next with mount.damaged := p.mount.damaged + 1 })
    ∧ (∀ n, x.sub = .blank n → blankLine bytes = true → n < 127 → p.headerLine l bytes =
        { p with mount.lanes := p.mount.lanes.set l { x with sub := .blank (n + 1) } })
    ∧ (∀ n, x.sub = .blank n → blankLine bytes = true → 127 ≤ n →
      p.headerLine l bytes = next.modSeg ⟨l, i⟩ fun _ => ⟨.free, 0, 0, 0, 1, false, 0, false⟩))
  ∧ (∀ p : Part,
    let conflict := ¬ (p.chain.map fun x => x.2.epoch).Nodup
    (p.chain = [] → (∀ l, p.present l = false) → p.endHeaders = p.failMount 3)
    ∧ ((p.chain ≠ [] ∨ ∃ l, p.present l = true) → conflict → p.endHeaders = p.failMount 4)
    ∧ ((p.chain ≠ [] ∨ ∃ l, p.present l = true) → ¬ conflict →
        p.endHeaders = Part.walkMembers (p.entries.length + 1) 0 { p with mount.step := .records }))
  ∧ (∀ (p : Part) (l : Lane),
    let x := p.mount.lanes.get l
    let left := (p.lane l).count - x.nextSeg
    let judged : LaneMount := ⟨x.identEnded, (p.lane l).count, .line0⟩
    (left = 0 → p.loseHeaders l = p)
    ∧ (0 < left → (∀ epoch, x.sub ≠ .trailer epoch) → p.loseHeaders l =
        { p with mount.damaged := p.mount.damaged + left, mount.lanes := p.mount.lanes.set l judged })
    ∧ (∀ epoch, 0 < left → x.sub = .trailer epoch → p.loseHeaders l =
        Part.modSeg ⟨l, x.nextSeg⟩ (fun e => { e with goodEnd := 1, used := 126 })
          { p with mount.damaged := p.mount.damaged + (left - 1), mount.lanes := p.mount.lanes.set l judged }))

/-- The records step and how a mount ends. READ_LINE_END hands the line to the walk (R169, R170): a trailered segment goes by
record headers, cut short and counted damaged at a broken one or one past its good end; an untrailered one line by line, its good
end at the first broken record, its used lines the highest line not blank for the youngest (also where the last line of its last
record is: log 42), else 126; an overflow fails the mount (5). The members follow in epoch order; one whose lane is lost before
its walk has good end 1 (R171; logs 38, 39), one being walked, from the moment the walk has moved on to it (log 44), keeps the
good end reached (log 21); the loss of lanes in this step is handed to it. The next line is asked for. Ends (R172 to R174):
claimed lines are the lines of the entries that name a segment; the youngest member becomes HEAD exactly when untrailered, its
used lines below 126, its lane PRESENT (line 127 then possibly torn: log 37); counters one above the highest sequence accepted, 0
where none was (log 33), and the highest epoch, or 1; records in head, last head lane; DEGRADED (2) with a lane OFFLINE or a
damaged count of 1 or more, else MOUNTED (1). Every end writes the survey record at 0000hex and raises MOUNT_ENDED, with the
low-water comparison unless intake has not ended (R51, R95). FAILED: directory empty, counters and records in head 0, last head
lane 3; a member not walked keeps its trailer's values, or has good end 1 and used lines 126; the one being walked keeps the good
end found (log 20). -/
def Obligations.MountWalksAndEnds : Prop :=
  ((∀ (s : State) (l : Lane) (bytes : List Byte) (i n ms : Nat) (w : MountWalk), s.part.live = true → bytes.length = 256 →
    (s.part.lane l).inFlight = some ⟨.mount, .readLine i n, ms, false⟩ → s.part.mount.step = .records → s.part.mount.walk = some w →
    exec (.readLineEnd l bytes) s = .next (s.withPart (((s.part.landed l).walkMountLine w bytes).mountProgress.refreshErase)))
  ∧ (∀ (p : Part) (w : MountWalk) (bytes : List Byte),
    let e := p.seg w.addr
    let h := readHeader bytes
    let k := lineCount h.length
    let high := if blankLine bytes then w.high else max w.high w.nextLine
    let v : MountWalk := { w with high := high }
    let entry : DirEntry := ⟨h.key, h.sequence, decide (h.kind = 2), ⟨w.addr, w.pos⟩, h.length, k⟩
    let whole := headerValid e.epoch w.pos bytes = true ∧ w.pos + k - 1 ≤ e.goodEnd - 1
    let past : MountWalk := ⟨w.addr, w.pos + k, w.accepted + 1, .header, w.pos + k, high⟩
    (w.phase = .header → e.trailered = true →
      (¬ whole → p.walkMountLine w bytes = Part.nextWalk v (Part.modSeg w.addr (fun e => { e with goodEnd := w.pos })
          { p with mount.lastAccepted := w.accepted, mount.damaged := p.mount.damaged + 1 }))
      ∧ (whole → dirMount entry p.dir = none → p.walkMountLine w bytes = p.failMount 5)
      ∧ (∀ d, whole → dirMount entry p.dir = some d →
          let q : Part := { p with
            dir := d, mount.maxSeq := if p.mount.maxSeq < h.sequence then h.sequence else p.mount.maxSeq }
          (w.pos + k < e.goodEnd → p.walkMountLine w bytes = { q with mount.walk := some past })
          ∧ (e.goodEnd ≤ w.pos + k → p.walkMountLine w bytes = (q.finishTrailered w.addr (w.accepted + 1)).nextWalk past)))
    ∧ (w.phase = .header → e.trailered = false →
      ((blankLine bytes = true ∨ headerValid e.epoch w.pos bytes = false) →
        p.walkMountLine w bytes = p.endUntrailered v (w.pos + 1))
      ∧ (blankLine bytes = false → headerValid e.epoch w.pos bytes = true →
        p.walkMountLine w bytes = p.recordLine v ⟨h, 0, PayloadRun.start⟩ bytes))
    ∧ (∀ r, w.phase = .payload r → p.walkMountLine w bytes = p.recordLine v r bytes)
    ∧ (w.phase = .rest → p.walkMountLine w bytes =
        if 126 ≤ w.nextLine then p.finishUntrailered v high else { p with mount.walk := some { v with nextLine := w.nextLine + 1 } }))
  ∧ (∀ (p : Part) (w : MountWalk) (r : WalkRec) (bytes : List Byte),
    let run := r.run.feed r.header.length r.got bytes
    let k := lineCount r.header.length
    let entry : DirEntry := ⟨r.header.key, r.header.sequence, decide (r.header.kind = 2), ⟨w.addr, w.pos⟩, r.header.length, k⟩
    let past : MountWalk := ⟨w.addr, w.pos + k, w.accepted + 1, .header, w.pos + k, w.high⟩
    (r.got + 1 < k → p.recordLine w r bytes =
        { p with mount.walk := some { w with phase := .payload ⟨r.header, r.got + 1, run⟩, nextLine := w.nextLine + 1 } })
    ∧ (k ≤ r.got + 1 → run.ok = false → p.recordLine w r bytes = p.endUntrailered w (w.nextLine + 1))
    ∧ (k ≤ r.got + 1 → run.ok = true → dirMount entry p.dir = none → p.recordLine w r bytes = p.failMount 5)
    ∧ (∀ d, k ≤ r.got + 1 → run.ok = true → dirMount entry p.dir = some d →
        let q : Part := { p with
          dir := d, mount.maxSeq := if p.mount.maxSeq < r.header.sequence then r.header.sequence else p.mount.maxSeq }
        p.recordLine w r bytes =
          if 127 ≤ w.pos + k then q.endUntrailered past (w.pos + k) else { q with mount.walk := some past }))
  ∧ (∀ (p : Part) (w : MountWalk) (next : Nat),
    let q := p.modSeg w.addr fun e => { e with goodEnd := w.pos }
    (p.youngest w.addr = true → next ≤ 126 →
        p.endUntrailered w next = { q with mount.walk := some { w with phase := .rest, nextLine := next } })
    ∧ (p.youngest w.addr = true → 126 < next → p.endUntrailered w next = q.finishUntrailered w w.high)
    ∧ (p.youngest w.addr = false → p.endUntrailered w next = q.finishUntrailered w 126)
    ∧ (∀ used, p.finishUntrailered w used = Part.nextWalk w
        (Part.modSeg w.addr (fun e => { e with used := used }) { p with mount.lastAccepted := w.accepted })))
  ∧ (∀ (p : Part) (w : MountWalk),
    p.nextWalk w = Part.walkMembers (p.entries.length + 1) (p.seg w.addr).epoch { p with mount.walk := none })
  ∧ (∀ (p : Part) (n : Nat) (after : Long),
    (p.nextMember after = none → p.walkMembers (n + 1) after = p.completeTables)
    ∧ ∀ a e, p.nextMember after = some (a, e) →
      (e.trailered = true → e.goodEnd ≤ 1 → p.walkMembers (n + 1) after = (p.finishTrailered a 0).walkMembers n e.epoch)
      ∧ ((e.trailered = false ∨ 1 < e.goodEnd) → p.present a.lane = true →
          p.walkMembers (n + 1) after = { p with mount.walk := some ⟨a, 1, 0, .header, 1, 0⟩ })
      ∧ ((e.trailered = false ∨ 1 < e.goodEnd) → p.present a.lane = false →
          p.walkMembers (n + 1) after = Part.walkMembers n e.epoch
            (if (p.seg a).trailered then Part.modSeg a (fun e => { e with goodEnd := 1 })
                { p with mount.lastAccepted := 0, mount.damaged := p.mount.damaged + 1 }
              else Part.modSeg a (fun e => { e with goodEnd := 1, used := 126 }) { p with mount.lastAccepted := 0 })))
  ∧ (∀ (p : Part) (a : SegAddr) (n : Nat), p.finishTrailered a n = { p with
      mount.lastAccepted := n,
      mount.damaged := p.mount.damaged + if (p.mount.kept.find? fun y => y.1 == a).all fun y => y.2 == n then 0 else 1 })
  ∧ (∀ (p : Part) (w : MountWalk), p.mount.walk = some w → p.present w.addr.lane = false →
    p.loseWalk = Part.nextWalk w (Part.modSeg w.addr (fun e => { e with
        goodEnd := if w.phase = .rest then e.goodEnd else w.pos,
        used := if e.trailered = true ∧ p.youngest w.addr = false then e.used else 126 })
      { p with mount.lastAccepted := w.accepted }))
  ∧ (∀ (p : Part) (lost : List Lane), p.mount.state = .mounting → p.mount.step = .records →
    p.mountLoses lost = p.loseWalk.mountProgress
      ∧ (∀ w, p.mount.walk = some w → p.present w.addr.lane = true → p.loseWalk = p) ∧ (p.mount.walk = none → p.loseWalk = p)))
  ∧ ((∀ p : Part, p.mount.state = .mounting → p.mount.step = .records → p.power.state ≠ .park → p.power.state ≠ .stopped →
    ∀ w, p.mount.walk = some w → p.present w.addr.lane = true → (p.lane w.addr.lane).waiting.mount = none →
      (p.lane w.addr.lane).flier ≠ some .mount →
      p.mountProgress = p.setLane w.addr.lane
        { p.lane w.addr.lane with waiting.mount := some ⟨.readLine w.addr.seg w.nextLine, false⟩ })
  ∧ (∀ p : Part,
    let q := p.computeClaims
    (∀ a, a.seg < (p.segs.get a.lane).length → q.seg a = { p.seg a with
        claimed := ((p.dir.filter fun x => x.loc.addr == a).map fun x => x.lines).sum })
    ∧ { q with segs := p.segs } = p
    ∧ (p.chain = [] → p.restoreHead =
        { p with head.seqCounter := 1, head.epochCounter := 1, head.recordsInHead := 0, lastHeadLane := 3 })
    ∧ (∀ a e, highestEpoch p.chain = some (a, e) →
        let up := { p with head.seqCounter := p.mount.maxSeq + 1, head.epochCounter := e.epoch + 1, lastHeadLane := a.lane }
        (e.trailered = false ∧ e.used < 126 ∧ p.present a.lane = true →
          p.restoreHead = Part.modSeg a (fun e => { e with state := .head }) { up with head.recordsInHead := p.mount.lastAccepted })
        ∧ (¬ (e.trailered = false ∧ e.used < 126 ∧ p.present a.lane = true) →
          p.restoreHead = { up with head.recordsInHead := 0 }))
    ∧ p.completeTables = (let r := q.restoreHead
        if (∃ l, (p.lane l).state = .offline) ∨ 1 ≤ p.mount.damaged then r.endMount .degraded 2 else r.endMount .mounted 1))
  ∧ (∀ (p : Part) (st : MountState) (code : Nat),
    let r : Part := { p with mount.state := st, mount.step := .ended, mount.walk := none, mount.outcome := code }
    let w : Part := { r with mem := Mem.writeBytes p.mem 0 r.surveyRecord, bus.sticky := p.bus.sticky ||| 0x20 }
    (p.orders.intake = .ended → p.endMount st code = w.compareLow)
    ∧ (p.orders.intake ≠ .ended → p.endMount st code = w))
  ∧ ∀ (p : Part) (code : Nat),
    let t := p.failMount code
    let walked : Long := match p.mount.walk with
      | none => 0
      | some w => (p.seg w.addr).epoch
    t.dir = [] ∧ t.head.seqCounter = 0 ∧ t.head.epochCounter = 0 ∧ t.head.recordsInHead = 0 ∧ t.lastHeadLane = 3
      ∧ t.mount.state = .failed ∧ t.mount.outcome = code ∧ t.mount.step = .ended ∧ t.bus.sticky = p.bus.sticky ||| 0x20
      ∧ t.orders = p.orders ∧ t.lanes = p.lanes ∧ t.reclaim = p.reclaim
      ∧ (∀ a, (∀ w, p.mount.walk = some w → w.addr ≠ a) →
          t.seg a = if (p.seg a).state = .closed ∧ (p.seg a).trailered = false ∧ walked < (p.seg a).epoch then
              { p.seg a with goodEnd := 1, used := 126 }
            else p.seg a)
      ∧ (∀ w, p.mount.walk = some w → w.addr.seg < (p.segs.get w.addr.lane).length →
          t.seg w.addr = if (p.seg w.addr).trailered then p.seg w.addr
            else { p.seg w.addr with goodEnd := w.pos, used := 126 }))

/-- PROGRAM_LINE_END of a line of a record: a pass short of the last line moves the used lines to that line and places the next
line, marked continuing; a pass of the last line moves used lines and good end past the record, counts it in the records in head,
gives the key its entry at the record's first line and completes the order OK with its sequence, the record unit free (R108); a
failure moves the used lines, leaves the good end, and closes the head with a trailer (R15, R131, R132, R133). A completion for a
key with an entry, LIVE or GONE, replaces it: GONE for a DROP's tombstone, else LIVE, with sequence, location and lengths new, the
old record's lines taken from its segment's claimed lines and the new ones added (R23, R24, R30), and the release signal when a
CLOSED segment's fell (R52). A copy's completion re-points the entry, its other fields kept, with the same claimed-line changes,
and answers reclaim (R26, R30, R153). What is placed: line j of an order's record is the j-th 256 bytes of the header, the payload
bytes read from the buffer as the line is built, and their check, FFhex after the last; of a copy, of a new header with COPIED and
the original's bytes from offset 16 on (R7, R11, R131). Its mark is continuing once a record line of the append has been
programmed; a record begun then is the repeated attempt, RETRIED from that moment on (R112, R133; log 27). Closing places the
trailer in line 127 (R129). -/
def Obligations.ProgramLineEnds : Prop :=
  (∀ (s : State) (l : Lane) (status : Byte) (rq : Requester) (i n ms : Nat) (b : List Byte) (disc : Bool) (a : Append)
      (sg : SegAddr) (first : Nat),
    s.part.live = true → (s.part.lane l).inFlight = some ⟨rq, .programLine i n b, ms, disc⟩ →
    s.part.head.append = some a → a.step = .programming sg first →
    (status ≠ 0 → exec (.programLineEnd l status) s = .next (s.withPart (Part.refreshErase
        (((s.part.landed l).useLine sg (first + a.done)).closeHead sg
          (if a.repeated then .secondFailure else .firstFailure) { a with started := true }))))
    ∧ (status = 0 → a.done + 1 < a.work.lines → exec (.programLineEnd l status) s = .next (s.withPart (Part.refreshErase
        (((s.part.landed l).useLine sg (first + a.done)).programNext sg first { a with done := a.done + 1, started := true }))))
    ∧ (∀ r : OrderReq, status = 0 → a.work = .order r → r.lines ≤ a.done + 1 → dirLookup s.part.dir r.key = none →
        exec (.programLineEnd l status) s = .next (s.withPart (Part.refreshErase
          (Part.finishRecord { okResult with retried := a.repeated, sequence := a.sequence }
            (Part.gainClaim sg r.lines
              (let p := ((s.part.landed l).useLine sg (first + a.done)).modSeg sg fun e => { e with goodEnd := first + r.lines }
               { p with
                 head.recordsInHead := p.head.recordsInHead + 1, head.append := none,
                 dir := dirPut ⟨r.key, a.sequence, r.tombstone, ⟨sg, first⟩, r.length, r.lines⟩ p.dir })))))))
  ∧ (∀ (s : State) (l : Lane) (rq : Requester) (i n ms : Nat) (b : List Byte) (disc : Bool) (a : Append)
      (sg : SegAddr) (first : Nat) (old : DirEntry),
    s.part.live = true → (s.part.lane l).inFlight = some ⟨rq, .programLine i n b, ms, disc⟩ →
    s.part.head.append = some a → a.step = .programming sg first → a.work.lines ≤ a.done + 1 →
    let u := Part.modSeg sg (fun e => { e with goodEnd := first + a.work.lines }) ((s.part.landed l).useLine sg (first + a.done))
    let made := fun (entry : DirEntry) (lines : Nat) =>
      let q : Part := { u with
        head.recordsInHead := u.head.recordsInHead + 1, head.append := none, dir := dirPut entry u.dir }
      let v := Part.gainClaim sg lines (Part.loseClaim old.loc.addr old.lines q)
      if (u.seg old.loc.addr).state = .closed ∧ (v.seg old.loc.addr).claimed < (u.seg old.loc.addr).claimed then v.release else v
    (∀ r : OrderReq, a.work = .order r → dirLookup s.part.dir r.key = some old →
      exec (.programLineEnd l 0) s = .next (s.withPart (Part.refreshErase
        (Part.finishRecord { okResult with retried := a.repeated, sequence := a.sequence }
          (made ⟨r.key, a.sequence, r.tombstone, ⟨sg, first⟩, r.length, r.lines⟩ r.lines)))))
    ∧ (∀ c : CopyReq, a.work = .copy c → dirLookup s.part.dir c.key = some old →
      exec (.programLineEnd l 0) s = .next (s.withPart (Part.refreshErase
        (Part.copyAnswer .completed (made { old with loc := ⟨sg, first⟩ } old.lines))))))
  ∧ (∀ (p : Part) (sg : SegAddr) (first : Nat) (a : Append),
    let epoch := (p.seg sg).epoch
    let placed := fun (bytes : List Byte) (crc : Long) => Part.place sg.lane .head
      ⟨.programLine sg.seg (first + a.done) bytes, a.started⟩ { p with head.append := some { a with crc := crc } }
    (∀ r, a.work = .order r →
      let payload := Mem.readBytes p.mem (r.bufOffset.toNat + (256 * a.done - 16))
        (min (r.length - (256 * a.done - 16)) (if a.done = 0 then 240 else 256))
      p.programNext sg first a = placed
        (orderLine (recordHeader r.tombstone false r.length r.key a.sequence epoch) payload r.length a.done (crc32Feed a.crc payload))
        (crc32Feed a.crc payload))
    ∧ (∀ c, a.work = .copy c → p.programNext sg first a = placed (copyLine c epoch a.done) a.crc)
    ∧ p.beginRecord sg first a = p.programNext sg first
        { a with step := .programming sg first, done := 0, crc := 0xFFFFFFFF, repeated := a.repeated || a.started }
    ∧ ∀ cause, p.closeHead sg cause a = Part.place sg.lane .head
        ⟨.programLine sg.seg 127 (trailer epoch (p.seg sg).goodEnd p.head.recordsInHead), a.started⟩
        { p with head.append := some { a with step := .closing sg cause } })
  ∧ (∀ (tomb copied : Bool) (length : Nat) (key sequence epoch : Long),
    let covered := [if tomb then (2 : Byte) else 1, if copied then 1 else 0] ++ leBytes 2 length ++ leBytes 4 key.toNat
      ++ leBytes 4 sequence.toNat ++ leBytes 2 (epoch.setWidth 16).toNat
    recordHeader tomb copied length key sequence epoch = covered ++ leBytes 2 (crc16 covered).toNat)
  ∧ (∀ (tomb : Bool) (key sequence epoch : Long) (payload : List Byte) (j : Nat), payload.length ≤ 4076 →
    j < lineCount payload.length →
    let header := recordHeader tomb false payload.length key sequence epoch
    let part := (payload.drop (256 * j - 16)).take (if j = 0 then 240 else 256)
    orderLine header part payload.length j (crc32Feed 0xFFFFFFFF (payload.take (256 * (j + 1) - 16)))
      = recordSlice (header ++ payload ++ leBytes 4 (crc32 payload).toNat) j)
  ∧ (∀ (p : Part) (a : SegAddr) (k : Nat),
    p.useLine a k = p.modSeg a (fun e => { e with used := k })
    ∧ p.gainClaim a k = p.modSeg a (fun e => { e with claimed := e.claimed + k })
    ∧ p.loseClaim a k = p.modSeg a fun e => { e with claimed := e.claimed - k })
  ∧ (∀ (p : Part) (r : Result), (p.record = none → p.finishRecord r = p)
    ∧ ∀ o, p.record = some o → p.finishRecord r = Part.complete o.slot r { p with record := none })
  ∧ ∀ (c : CopyReq) (epoch : Long) (j : Nat), copyLine c epoch j
      = recordSlice (recordHeader false true c.length c.key c.sequence epoch ++ (c.bytes.drop 16).take (c.length + 4)) j

/-- PROGRAM_LINE_END of a segment header or a trailer, with no set-back decided. A header that passes makes the segment HEAD with
used lines 0 and good end 1 and the record is programmed from line 1; one that fails puts the segment in ERASE_WAIT with retire
yes and the append goes on to its next opening. A trailer leaves the head CLOSED, trailered exactly when it passed, retire yes
when the close followed a program failure or the trailer failed, and the append goes on to its opening, or ends PROGRAM_FAULT
after its second failure (R40, R41, R54, R129, R130, R133). A HEAD that so enters CLOSED with claimed lines below 126 sends the
release signal first (R41, R52; releaseIfClosed, which ReclaimGoesOn unfolds); with reclaim not STALLED that has no effect (R151). -/
def Obligations.ProgramLineEndsOpenClose : Prop :=
  ∀ (s : State) (l : Lane) (status : Byte) (rq : Requester) (i n ms : Nat) (b : List Byte) (disc : Bool) (a : Append)
      (sg : SegAddr),
    s.part.live = true → (s.part.lane l).inFlight = some ⟨rq, .programLine i n b, ms, disc⟩ →
    s.part.head.append = some a → a.setBack = none →
    (a.step = .opening sg →
      (status = 0 → exec (.programLineEnd l status) s = .next (s.withPart (Part.refreshErase (Part.beginRecord sg 1 a
          (Part.wakeRoom
            { Part.modSeg sg (fun e => { e with state := .head, used := 0, goodEnd := 1, claimed := 0, trailered := false })
                (s.part.landed l) with head.recordsInHead := 0 })))))
      ∧ (status ≠ 0 → exec (.programLineEnd l status) s = .next (s.withPart (Part.refreshErase (Part.openSegment a
          (Part.modSeg sg (fun e => { e with state := .eraseWait, retire := true }) (s.part.landed l)))))))
    ∧ (∀ cause, a.step = .closing sg cause →
        let closed : Part :=
          { Part.modSeg sg (fun e => { e with
                state := .closed, trailered := decide (status = 0),
                retire := e.retire || decide (cause ≠ .noRoom) || decide (status ≠ 0) })
              (s.part.landed l) with head.recordsInHead := 0 }
        let told := if (s.part.seg sg).state = .head then closed.releaseIfClosed sg else closed
        exec (.programLineEnd l status) s = .next (s.withPart (Part.refreshErase
          (if cause = .secondFailure then told.endAppend .programFault a else told.openSegment a))))
    ∧ (∀ cause, a.step = .closing sg cause → s.part.reclaim.state ≠ .stalled →
        let closed : Part :=
          { Part.modSeg sg (fun e => { e with
                state := .closed, trailered := decide (status = 0),
                retire := e.retire || decide (cause ≠ .noRoom) || decide (status ≠ 0) })
              (s.part.landed l) with head.recordsInHead := 0 }
        exec (.programLineEnd l status) s = .next (s.withPart (Part.refreshErase
          (if cause = .secondFailure then closed.endAppend .programFault a else closed.openSegment a))))

/-- ERASE_SEGMENT_END with no order waiting on the segment and no copy or append waiting for room: a pass without retire leaves
the segment FREE, a pass with retire or a failure leaves it BAD; every other field of its entry is as R45 gives (R45). -/
def Obligations.EraseEnds : Prop :=
  ∀ (s : State) (l : Lane) (status : Byte) (rq : Requester) (i ms : Nat) (disc : Bool), s.part.live = true →
    (s.part.lane l).inFlight = some ⟨rq, .eraseSegment i, ms, disc⟩ → s.part.reclaim.attached = none → s.part.format = none →
    s.part.reclaim.copyWait = false → s.part.head.orderReq = none →
    (status = 0 → (s.part.seg ⟨l, i⟩).retire = false → exec (.eraseSegmentEnd l status) s = .next (s.withPart
        (((s.part.landed l).modSeg ⟨l, i⟩ fun _ => ⟨.free, 0, 0, 0, 1, false, 0, false⟩).refreshErase)))
    ∧ ((status ≠ 0 ∨ (s.part.seg ⟨l, i⟩).retire = true) → exec (.eraseSegmentEnd l status) s = .next (s.withPart
        (((s.part.landed l).modSeg ⟨l, i⟩ fun _ => ⟨.bad, 0, 0, 0, 1, false, 0, false⟩).refreshErase)))

/-- How reclaim goes on. An evaluation (R150): fewer than two chain segments, IDLE; saturation (R52), STALLED with SATURATED; the
lowest segment on a lane not PRESENT, a halt; CLOSED, it becomes RECLAIMING and is walked from line 1 (not CLOSED: log 35). A
trigger (R51, R151) comes with the free count at or below the mark, mount ended and no FORMAT: latched outside ACTIVE, evaluated
in IDLE and STALLED, without effect in COPYING and HALTED. A release (R52): in STALLED an evaluation at or below the mark, else
IDLE, pending outside ACTIVE; both are served on the return to ACTIVE. That a pass so begun has origin trigger is the model's (log
18). The walk (R155): below the good end the next READ LINE; at it, or at a blank or broken line of an unclaimed tail (R154), the
tail goes to ERASE_WAIT with claimed lines 0 (R43), an attached order records the copied lines, and a pass begun by a trigger
evaluates again while the free count is below the high-water mark without saturation, one begun by an order does so at or below
the low-water mark; else IDLE. The answers to a copy, discarded with no tail or no record in hand (R153), and a halt (R156). A
rise of the free count lets a request waiting for room be granted and a copy that waits be submitted again; a copy that waits with
nothing left to erase halts the unit (R128, R153). The end of an erase (R45, R157): a waiting RECLAIM order completes with its
freed lines (R159), a FORMAT's set shrinks and the FORMAT completes with the number that became BAD when it is empty (R162). -/
def Obligations.ReclaimGoesOn : Prop :=
  let ended := fun (p : Part) (t : SegAddr) =>
    let q := p.modSeg t fun e => { e with state := .eraseWait, claimed := 0 }
    let e : Part := { q with
      reclaim.tail := none, reclaim.inHand := none,
      reclaim.attached := p.reclaim.attached.map fun a => if a.seg = t then { a with recorded := some p.reclaim.copied } else a }
    if p.reclaim.origin = .trigger then
      if e.freeCount < e.orders.highMark ∧ e.saturation = false then e.evaluate .trigger else e.toReclaim .idle
    else
      let f := e.toReclaim .idle
      if f.freeCount ≤ f.orders.lowMark then
        (if f.power.state = .active then f.evaluate .trigger else { f with reclaim.latchedTrigger := true })
      else f
  (∀ p : Part,
    (p.wakeRoom = { p with head.orderReq := p.head.orderReq.map fun r => { r with waitingRoom := false } })
    ∧ (p.reclaim.copyWait = false → p.afterRise = p.wakeRoom)
    ∧ (∀ t h, p.reclaim.copyWait = true → p.reclaim.tail = some t → p.reclaim.inHand = some h →
        p.afterRise = { p.wakeRoom with
          head.copyReq := some ⟨h.header.key, h.header.sequence, h.header.length, h.lines, ⟨t, h.first⟩, h.bytes⟩,
          reclaim.copyWait := false })
    ∧ (let coming := ∃ x ∈ p.entries, (x.2.state = .eraseWait ∨ x.2.state = .erasing ∨ x.2.state = .unswept)
          ∧ p.present x.1.lane = true
       (p.reclaim.copyWait = true → ¬ coming → p.recheckCopyWait = p.haltReclaim)
       ∧ (p.reclaim.copyWait = false ∨ coming → p.recheckCopyWait = p)))
  ∧ (∀ (p : Part) (o : Origin),
    (p.chain.length < 2 → p.evaluate o = p.toReclaim .idle)
    ∧ (2 ≤ p.chain.length → p.saturation = true → p.evaluate o = (p.toReclaim .stalled).raise .saturated)
    ∧ (∀ a e, 2 ≤ p.chain.length → p.saturation = false → lowestEpoch p.chain = some (a, e) →
        (p.present a.lane = false → p.evaluate o = p.haltReclaim)
        ∧ (p.present a.lane = true → e.state ≠ .closed → p.evaluate o = p.toReclaim .idle)
        ∧ (p.present a.lane = true → e.state = .closed → p.evaluate o = Part.walk
            { p.modSeg a (fun e => { e with state := .reclaiming }) with
              reclaim.state := .copying, reclaim.tail := some a, reclaim.pos := 1, reclaim.copied := 0, reclaim.inHand := none,
              reclaim.copyWait := false, reclaim.origin := o }))
    ∧ (p.saturation = true ↔ ∀ x ∈ p.entries, x.2.state = .closed → x.2.claimed = 126)
    ∧ (∀ st, p.toReclaim st = if p.reclaim.state = .copying ∧ st ≠ .copying then
          { p with reclaim.state := st, head.orderReq := p.head.orderReq.map fun r => { r with waitingRoom := false } }
        else { p with reclaim.state := st }))
  ∧ (∀ p : Part,
    (p.compareLow = if (p.mount.state = .mounted ∨ p.mount.state = .degraded) ∧ p.reclaim.suspended = false
          ∧ p.freeCount ≤ p.orders.lowMark then p.trigger
        else p)
    ∧ (p.power.state ≠ .active → p.trigger = { p with reclaim.latchedTrigger := true })
    ∧ (p.power.state = .active → (p.reclaim.state = .idle ∨ p.reclaim.state = .stalled) → p.trigger = p.evaluate .trigger)
    ∧ (p.power.state = .active → (p.reclaim.state = .copying ∨ p.reclaim.state = .halted) → p.trigger = p)
    ∧ (p.reclaim.state ≠ .stalled → p.release = p)
    ∧ (p.reclaim.state = .stalled → p.power.state ≠ .active → p.release = { p with reclaim.releasePending := true })
    ∧ (p.reclaim.state = .stalled → p.power.state = .active →
        p.release = if p.freeCount ≤ p.orders.lowMark then p.evaluate .trigger else p.toReclaim .idle)
    ∧ (∀ a before, p.releaseIfFell a before = if before.state = .closed ∧ (p.seg a).claimed < before.claimed then p.release else p)
    ∧ (∀ a, p.releaseIfClosed a = if (p.seg a).claimed < 126 then p.release else p)
    ∧ (p.reclaim.state = .idle → p.reclaimReturns
        = if p.reclaim.latchedTrigger then Part.evaluate .trigger { p with reclaim.latchedTrigger := false } else p)
    ∧ (p.reclaim.state = .stalled →
        let q : Part := { p with reclaim.latchedTrigger := false, reclaim.releasePending := false }
        p.reclaimReturns = if p.reclaim.releasePending then
            (if p.freeCount ≤ p.orders.lowMark then q.evaluate .trigger else q.toReclaim .idle)
          else if p.reclaim.latchedTrigger then q.evaluate .trigger else p)
    ∧ (p.reclaim.state = .copying ∨ p.reclaim.state = .halted → p.reclaimReturns = { p with reclaim.latchedTrigger := false }))
  ∧ (∀ (p : Part) (t : SegAddr), p.reclaim.tail = some t →
    (p.reclaim.pos < (p.seg t).goodEnd → p.walk = p.place t.lane .reclaim ⟨.readLine t.seg p.reclaim.pos, false⟩)
    ∧ ((p.seg t).goodEnd ≤ p.reclaim.pos → p.walk = ended p t))
  ∧ (∀ (s : State) (l : Lane) (bytes : List Byte) (seg line ms : Nat) (t : SegAddr), s.part.live = true → bytes.length = 256 →
    (s.part.lane l).inFlight = some ⟨.reclaim, .readLine seg line, ms, false⟩ → s.part.reclaim.tail = some t →
    s.part.reclaim.inHand = none → (s.part.seg t).claimed = 0 →
    (blankLine bytes = true ∨ headerValid (s.part.seg t).epoch s.part.reclaim.pos bytes = false) →
    exec (.readLineEnd l bytes) s = .next (s.withPart ((ended (s.part.landed l) t).refreshErase)))
  ∧ (∀ (p : Part) (t : SegAddr) (h : Hand), p.reclaim.tail = some t → p.reclaim.inHand = some h →
    let again : Part := { p with
      head.copyReq := some ⟨h.header.key, h.header.sequence, h.header.length, h.lines, ⟨t, h.first⟩, h.bytes⟩,
      reclaim.copyWait := false }
    p.copyAnswer .completed = Part.walk { p with
        reclaim.copied := p.reclaim.copied + h.lines, reclaim.inHand := none, reclaim.pos := p.reclaim.pos + h.lines }
      ∧ p.copyAnswer .discarded = Part.walk { p with reclaim.inHand := none, reclaim.pos := p.reclaim.pos + h.lines }
      ∧ (p.copyAnswer .journalFull = if ∃ x ∈ p.entries, (x.2.state = .eraseWait ∨ x.2.state = .erasing ∨ x.2.state = .unswept)
            ∧ p.present x.1.lane = true then { p with reclaim.copyWait := true } else p.haltReclaim)
      ∧ (p.copyAnswer .laneLost = if p.present t.lane then again else p.haltReclaim)
      ∧ p.copyAnswer .programFault = p.haltReclaim ∧ p.copyAnswer .sequenceSpent = p.haltReclaim)
  ∧ (∀ (p : Part) (ans : CopyAnswer), (p.reclaim.tail = none ∨ p.reclaim.inHand = none) → p.copyAnswer ans = p)
  ∧ (∀ p : Part,
    let h := p.haltReclaim
    h.reclaim.state = .halted ∧ h.reclaim.tail = none ∧ h.reclaim.inHand = none ∧ h.reclaim.copyWait = false
      ∧ h.head.copyReq = none ∧ h.bus.sticky = p.bus.sticky ||| 0x10 ∧ (∀ l, (h.lane l).waiting.reclaim = none)
      ∧ h.head.orderReq = (if p.reclaim.state = .copying then p.head.orderReq.map fun r => { r with waitingRoom := false }
          else p.head.orderReq)
      ∧ (∀ a, h.seg a = if p.reclaim.tail = some a ∧ (p.seg a).state = .reclaiming then { p.seg a with state := .closed }
          else p.seg a)
      ∧ (∀ o, p.reclaim.attached = some o → p.reclaim.tail = some o.seg → h.reclaim.attached = none
          ∧ h.orders.doneList = p.orders.doneList ++ [o.slot]
          ∧ h.mem = (p.complete o.slot (faultResult .reclaimHalted)).mem)
      ∧ ((∀ o, p.reclaim.attached = some o → p.reclaim.tail ≠ some o.seg) →
          h.reclaim.attached = p.reclaim.attached ∧ h.orders = p.orders ∧ h.mem = p.mem))
  ∧ (∀ (s : State) (l : Lane) (status : Byte) (rq : Requester) (i ms : Nat) (disc : Bool), s.part.live = true →
    (s.part.lane l).inFlight = some ⟨rq, .eraseSegment i, ms, disc⟩ →
    let p := s.part.landed l
    let a : SegAddr := ⟨l, i⟩
    (status = 0 → (s.part.seg a).retire = false → exec (.eraseSegmentEnd l status) s = .next (s.withPart (Part.refreshErase
        (Part.afterRise (Part.reportErase a .free (p.modSeg a fun _ => ⟨.free, 0, 0, 0, 1, false, 0, false⟩))))))
    ∧ ((status ≠ 0 ∨ (s.part.seg a).retire = true) → exec (.eraseSegmentEnd l status) s = .next (s.withPart (Part.refreshErase
        (Part.recheckCopyWait (Part.reportErase a .bad (p.modSeg a fun _ => ⟨.bad, 0, 0, 0, 1, false, 0, false⟩)))))))
  ∧ ∀ (p : Part) (a : SegAddr) (rep : EraseReport),
    (p.reclaim.attached = none → p.format = none → p.reportErase a rep = p)
    ∧ (∀ o, p.reclaim.attached = some o → p.format = none →
        (o.seg ≠ a → p.reportErase a rep = p)
        ∧ (o.seg = a → p.reportErase a rep = Part.complete o.slot
            { okResult with length := if rep = .free then BitVec.ofNat 16 (126 - o.recorded.getD 0) else 0 }
            { p with reclaim.attached := none }))
    ∧ (∀ job, p.reclaim.attached = none → p.format = some job → job.taken = true → a ∈ job.waitSet →
        let rest := job.waitSet.filter (· ≠ a)
        let bad := job.bad + if rep = .bad then 1 else 0
        (rest ≠ [] → p.reportErase a rep = { p with format := some { job with waitSet := rest, bad := bad } })
        ∧ (rest = [] → p.reportErase a rep = Part.complete job.slot { okResult with length := BitVec.ofNat 16 bad }
            { p with format := none, reclaim := Reclaim.reset }))
    ∧ (∀ job, p.reclaim.attached = none → p.format = some job → (job.taken = false ∨ a ∉ job.waitSet) → p.reportErase a rep = p)

/-! ## Orders -/

/-- The dispatch checks of R105 in their order, for each kind. -/
def Obligations.DispatchChecks : Prop :=
  ∀ (m : Bool) (f : OrderFields),
    let valid := fun k : Long => k ≠ 0 ∧ k ≠ 0xFFFFFFFF
    let inside := 0x0900 ≤ f.bufOffset.toNat ∧ f.bufOffset.toNat + f.bufLength.toNat ≤ 0x8000
    (f.kind = 0 ∨ 7 < f.kind.toNat → dispatchCheck m f = some .badKind)
    ∧ (f.kind = 1 → dispatchCheck m f = if ¬ valid f.key then some .badKey
        else if 4076 < f.bufLength.toNat then some .badLength else if ¬ inside then some .badBuffer
        else if m = false then some .notMounted else none)
    ∧ (f.kind = 2 → dispatchCheck m f = if ¬ valid f.key then some .badKey else if ¬ inside then some .badBuffer
        else if m = false then some .notMounted else none)
    ∧ (f.kind = 3 → dispatchCheck m f = if ¬ valid f.key then some .badKey else if m = false then some .notMounted else none)
    ∧ (f.kind = 4 → dispatchCheck m f = if ¬ (valid f.key ∧ valid f.keyHi) then some .badKey
        else if ¬ inside then some .badBuffer
        else if ¬ (f.key ≤ f.keyHi ∧ 1 ≤ f.step.toNat ∧ 1 ≤ f.patLength.toNat ∧ f.patLength.toNat ≤ 16 ∧ 1 ≤ f.mode.toNat
            ∧ f.mode.toNat ≤ 5) then some .badRange
        else if m = false then some .notMounted else none)
    ∧ (f.kind = 5 → dispatchCheck m f = if m = false then some .notMounted else none)
    ∧ (f.kind = 6 → dispatchCheck m f = none)
    ∧ (f.kind = 7 → dispatchCheck m f = if ¬ inside then some .badBuffer
        else if f.bufLength.toNat < 64 then some .badBuffer else none)

/-- A completion writes class, reason, marks and every result field, then phase 3; no other byte of exchange memory changes; the
slot is DONE and its number is at the tail of the done list; no other slot changes (R93, R107, R108, R112). That the writes are
one act, no command falling between the outcome and phase 3, is the model's choice (log 13): the bytes are those after it. -/
def Obligations.CompletionWrites : Prop :=
  ∀ (s : State) (n : SlotNo) (r : Result), Mem.wf s.part.mem = true →
    let t : State := (s.withPart (s.part.complete n r))
    t.slotByte n 0 = 3 ∧ t.slotByte n 3 = r.cls.code ∧ t.slotByte n 4 = r.reason.code
      ∧ t.slotByte n 5 = (if r.retried then 1 else 0) + (if r.damagedSeen then 2 else 0)
      ∧ leNat ((List.range 4).map fun k => t.slotByte n (20 + k)) = r.sequence.toNat
      ∧ leNat ((List.range 2).map fun k => t.slotByte n (24 + k)) = r.length.toNat
      ∧ leNat ((List.range 2).map fun k => t.slotByte n (26 + k)) = r.examined.toNat
      ∧ leNat ((List.range 4).map fun k => t.slotByte n (28 + k)) = r.resume.toNat ∧ t.slotByte n 35 = r.damaged
      ∧ (∀ a, (∀ k ∈ [0, 3, 4, 5, 20, 21, 22, 23, 24, 25, 26, 27, 28, 29, 30, 31, 35], a ≠ slotBase n + k) → t.byte a = s.byte a)
      ∧ t.part.orders.doneList = s.part.orders.doneList ++ [n] ∧ t.part.slot n = ⟨true, .done⟩
      ∧ (∀ m, m ≠ n → t.part.slot m = s.part.slot m)

/-- A dispatch of the head order of each kind that fails a check: the number leaves the queue, the slot is completed REFUSED with
the reason of the first check that fails and every result field 0, and no unit takes it; for a kind not from 1 to 7 this is the
command's whole effect, BAD_KIND (R105, R107). The head is dispatched only in ACTIVE, with intake ended, mount ended (MOUNTED,
DEGRADED or FAILED) and no FORMAT in progress, and it is the first number of the queue with its slot's fields (R103, R104). With
no head to dispatch, with a head of another kind, or with the kind's unit not free, a dispatch command leaves the queue, the slots
and all else as they were but for the erase requests: the model's choice (log 1). What every dispatch begins with: the first
number leaves the queue, its slot is RUNNING in the slot table, its phase byte reads 2, and nothing else changes (R97, R105); and
where in the slot each order field is read (R93, R104). -/
def Obligations.DispatchRefuses : Prop :=
  (∀ (s : State) (n : SlotNo) (f : OrderFields) (why : Reason), s.part.live = true → s.part.headOrder = some (n, f) →
    dispatchCheck s.part.mounted f = some why →
    let refused : Host.Outcome State Fault Refusal :=
      .next (s.withPart (((s.part.startOrder n).complete n ⟨.refused, why, false, false, 0, 0, 0, 0, 0⟩).refreshErase))
    ((f.kind = 0 ∨ 7 < f.kind.toNat) → why = .badKind ∧ exec .badKind s = refused)
    ∧ (s.part.record = none → (f.kind = 1 → exec .put s = refused) ∧ (f.kind = 2 → exec .get s = refused)
        ∧ (f.kind = 3 → exec .drop s = refused) ∧ (f.kind = 7 → exec .survey s = refused))
    ∧ (s.part.scan = none → f.kind = 4 → exec .scan s = refused)
    ∧ (s.part.reclaim.attached = none → f.kind = 5 → exec .reclaim s = refused)
    ∧ s.part.power.state = .active ∧ s.part.orders.intake = .ended ∧ s.part.format = none
    ∧ (s.part.mounted = true ∨ s.part.mount.state = .failed) ∧ s.part.orders.postQueue.head? = some n)
  ∧ (∀ (p : Part) (n : SlotNo) (f : OrderFields), p.headOrder = some (n, f) ↔
      p.power.state = .active ∧ p.orders.intake = .ended
        ∧ (p.mount.state = .mounted ∨ p.mount.state = .degraded ∨ p.mount.state = .failed) ∧ p.format = none
        ∧ p.orders.postQueue.head? = some n ∧ f = p.readFields n)
  ∧ (∀ (p : Part) (n : SlotNo), p.startOrder n = { p with
      orders.postQueue := p.orders.postQueue.tail, orders.slots := p.orders.slots.set n.val ⟨true, .running⟩ n.isLt,
      mem := Mem.writeBytes p.mem (slotBase n) [2] })
  ∧ (∀ (s : State) (n : SlotNo),
    let t : State := s.withPart (s.part.startOrder n)
    t.part.slot n = ⟨true, .running⟩ ∧ (∀ m, m ≠ n → t.part.slot m = s.part.slot m)
      ∧ (Mem.wf s.part.mem = true → t.slotByte n 0 = 2 ∧ ∀ a, a ≠ slotBase n → t.byte a = s.byte a))
  ∧ (∀ (s : State) (n : SlotNo),
    let f := s.part.readFields n
    let field := fun (offset k : Nat) => leNat ((List.range k).map fun i => s.slotByte n (offset + i))
    f.kind = s.slotByte n 1 ∧ f.options = s.slotByte n 2 ∧ f.step = s.slotByte n 6 ∧ f.mode = s.slotByte n 7
      ∧ f.key.toNat = field 8 4 ∧ f.keyHi.toNat = field 12 4 ∧ f.bufOffset.toNat = field 16 2 ∧ f.bufLength.toNat = field 18 2
      ∧ f.cmpOffset.toNat = field 32 2 ∧ f.patLength = s.slotByte n 34
      ∧ f.pattern = (List.range 16).map fun i => s.slotByte n (36 + i))
  ∧ ∀ s : State, s.part.live = true →
    let kept : Host.Outcome State Fault Refusal := .next (s.withPart s.part.refreshErase)
    (s.part.headOrder = none → ∀ c ∈ dispatchRows, exec c s = kept)
    ∧ ∀ (n : SlotNo) (f : OrderFields), s.part.headOrder = some (n, f) →
      (s.part.record ≠ none → ∀ c ∈ [Instr.put, .get, .drop, .survey], exec c s = kept)
      ∧ (s.part.scan ≠ none → exec .scan s = kept) ∧ (s.part.reclaim.attached ≠ none → exec .reclaim s = kept)
      ∧ ((s.part.record ≠ none ∨ s.part.scan ≠ none ∨ s.part.reclaim.attached ≠ none) → exec .format s = kept)
      ∧ (f.kind ≠ 1 → exec .put s = kept) ∧ (f.kind ≠ 2 → exec .get s = kept) ∧ (f.kind ≠ 3 → exec .drop s = kept)
      ∧ (f.kind ≠ 4 → exec .scan s = kept) ∧ (f.kind ≠ 5 → exec .reclaim s = kept) ∧ (f.kind ≠ 6 → exec .format s = kept)
      ∧ (f.kind ≠ 7 → exec .survey s = kept) ∧ (1 ≤ f.kind.toNat → f.kind.toNat ≤ 7 → exec .badKind s = kept)

/-- PUT: EXPECT unmet ends FAULT / MISMATCH with the key's sequence (0 if absent); a new key with the directory full ends FAULT /
DIRECTORY_FULL; otherwise the record unit holds the order and its request waits at the head writer, no sequence consumed yet (R116,
R118). -/
def Obligations.PutRequests : Prop :=
  ∀ (s : State) (n : SlotNo) (f : OrderFields), s.part.live = true → s.part.headOrder = some (n, f) →
    dispatchCheck s.part.mounted f = none → f.kind = 1 → s.part.record = none →
    let e := dirLookup s.part.dir f.key
    let live := ∃ x, e = some x ∧ x.gone = false
    let met := f.options.getLsbD 0 = false ∨ (f.keyHi = 0 ∧ ¬ live)
      ∨ (f.keyHi ≠ 0 ∧ ∃ x, e = some x ∧ x.gone = false ∧ x.sequence = f.keyHi)
    (¬ met → exec .put s = .next (s.withPart (((s.part.startOrder n).complete n
        { faultResult .mismatch with sequence := (e.map (·.sequence)).getD 0 }).refreshErase)))
    ∧ (met → e = none → 4096 ≤ s.part.dir.length → exec .put s = .next (s.withPart
        (((s.part.startOrder n).complete n (faultResult .directoryFull)).refreshErase)))
    ∧ (met → (e ≠ none ∨ s.part.dir.length < 4096) → exec .put s = .next (s.withPart (Part.refreshErase
        { s.part.startOrder n with
          record := some ⟨n, f, .waiting⟩,
          head.orderReq := some ⟨false, f.key, f.bufLength.toNat, f.bufOffset, (16 + f.bufLength.toNat + 4 + 255) / 256, none,
            false⟩ })))

/-- DROP: a key absent or GONE ends FAULT / NOT_FOUND; EXPECT unmet ends FAULT / MISMATCH; otherwise a tombstone of one line is
requested of the head writer (R117, R118). -/
def Obligations.DropRequests : Prop :=
  ∀ (s : State) (n : SlotNo) (f : OrderFields), s.part.live = true → s.part.headOrder = some (n, f) →
    dispatchCheck s.part.mounted f = none → f.kind = 3 → s.part.record = none →
    let met := fun x : DirEntry => f.options.getLsbD 0 = false ∨ (f.keyHi ≠ 0 ∧ x.sequence = f.keyHi)
    (dirLookup s.part.dir f.key = none → exec .drop s = .next (s.withPart
        (((s.part.startOrder n).complete n (faultResult .notFound)).refreshErase)))
    ∧ (∀ x, dirLookup s.part.dir f.key = some x →
        (x.gone = true → exec .drop s = .next (s.withPart
          (((s.part.startOrder n).complete n { faultResult .notFound with sequence := x.sequence }).refreshErase)))
        ∧ (x.gone = false → ¬ met x → exec .drop s = .next (s.withPart
          (((s.part.startOrder n).complete n { faultResult .mismatch with sequence := x.sequence }).refreshErase)))
        ∧ (x.gone = false → met x → exec .drop s = .next (s.withPart (Part.refreshErase
          { s.part.startOrder n with
            record := some ⟨n, f, .waiting⟩, head.orderReq := some ⟨true, f.key, 0, 0, 1, none, false⟩ }))))

/-- GET: a key absent or GONE ends FAULT / NOT_FOUND; a payload longer than the buffer ends FAULT / SHORT_BUFFER with sequence and
length; otherwise the readers count of the record's segment is taken in the act of the lookup and the first line is asked for on
the record's lane, or, when that lane is not PRESENT, the order ends FAULT / LANE_OFFLINE with the count released (R53, R71, R119,
R121). -/
def Obligations.GetReads : Prop :=
  ∀ (s : State) (n : SlotNo) (f : OrderFields), s.part.live = true → s.part.headOrder = some (n, f) →
    dispatchCheck s.part.mounted f = none → f.kind = 2 → s.part.record = none →
    (dirLookup s.part.dir f.key = none ∨ (∃ x, dirLookup s.part.dir f.key = some x ∧ x.gone = true) →
      exec .get s = .next (s.withPart (((s.part.startOrder n).complete n (faultResult .notFound)).refreshErase)))
    ∧ (∀ x, dirLookup s.part.dir f.key = some x → x.gone = false →
        let g : GetRead := ⟨x, 0, 0, PayloadRun.start, x.loc.addr⟩
        (f.bufLength.toNat < x.length → exec .get s = .next (s.withPart (((s.part.startOrder n).complete n
          { faultResult .shortBuffer with sequence := x.sequence, length := BitVec.ofNat 16 x.length }).refreshErase)))
        ∧ (x.length ≤ f.bufLength.toNat → s.part.present x.loc.addr.lane = true → exec .get s = .next (s.withPart
            (Part.refreshErase (Part.place x.loc.addr.lane .record ⟨.readLine x.loc.addr.seg x.loc.line, false⟩
              ({ s.part.startOrder n with record := some ⟨n, f, .reading g⟩ }.takeReader x.loc.addr)))))
        ∧ (x.length ≤ f.bufLength.toNat → s.part.present x.loc.addr.lane = false → exec .get s = .next (s.withPart
            (Part.refreshErase (Part.complete n
              { faultResult .laneOffline with sequence := x.sequence, length := BitVec.ofNat 16 x.length }
              (((s.part.startOrder n).takeReader x.loc.addr).releaseReader x.loc.addr))))))

/-- SURVEY: the 64 bytes of the survey record go to the first 64 bytes of the buffer, and the order completes OK with every result
field 0 (R95, R122); that the record and the completion are one act is the model's choice (log 13). The record, by R95's table:
the mount outcome, the present, absent and offline lane sets, the four segment counts, chain length, free count, segments in
ERASE_WAIT or ERASING, BAD segments, the damaged count, LIVE and GONE entries, the two counters, reclaim state, saturation, power
state, the three configuration words and their source; every other byte 0. A figure of two bytes is its low 16 bits. -/
def Obligations.SurveyWrites : Prop :=
  (∀ p : Part,
    let f := p.surveyField
    let segs := fun (ok : SegState → Bool) => (p.entries.countP fun x => ok x.2.state) % 65536
    p.surveyRecord.length = 64
    ∧ f 0 1 = p.mount.outcome % 256
    ∧ (∀ l : Lane, (BitVec.ofNat 8 (f 1 1)).getLsbD l.val = decide ((p.lane l).state = .present ∨ (p.lane l).state = .offline)
        ∧ (BitVec.ofNat 8 (f 2 1)).getLsbD l.val = decide ((p.lane l).state = .absent)
        ∧ (BitVec.ofNat 8 (f 3 1)).getLsbD l.val = decide ((p.lane l).state = .offline)
        ∧ f (4 + 2 * l.val) 2 = (p.lane l).count % 65536)
    ∧ f 1 1 < 16 ∧ f 2 1 < 16 ∧ f 3 1 < 16
    ∧ f 12 2 = segs (fun st => st == .head || st == .closed || st == .reclaiming)
    ∧ f 14 2 = p.freeCount % 65536
    ∧ f 16 2 = segs (fun st => st == .eraseWait || st == .erasing) ∧ f 18 2 = segs (fun st => st == .bad)
    ∧ f 20 2 = p.mount.damaged % 65536
    ∧ f 22 2 = (p.dir.countP fun x => x.gone == false) % 65536 ∧ f 24 2 = (p.dir.countP fun x => x.gone) % 65536 ∧ f 26 2 = 0
    ∧ f 28 4 = p.head.seqCounter.toNat ∧ f 32 4 = p.head.epochCounter.toNat
    ∧ f 36 1 = p.reclaim.state.code ∧ f 37 1 = (if p.saturation then 1 else 0) ∧ f 38 1 = p.power.state.code ∧ f 39 1 = 0
    ∧ f 40 1 = p.orders.lowMark % 256 ∧ f 41 1 = p.orders.highMark % 256 ∧ f 42 1 = p.orders.postMark % 256
    ∧ f 43 1 = p.bus.cfgSel.toNat ∧ p.surveyRecord.drop 44 = List.replicate 20 0)
  ∧ ∀ (s : State) (n : SlotNo) (f : OrderFields), s.part.live = true → s.part.headOrder = some (n, f) →
      dispatchCheck s.part.mounted f = none → f.kind = 7 → s.part.record = none →
      exec .survey s = .next (s.withPart
        ((((s.part.startOrder n).store f.bufOffset.toNat (s.part.startOrder n).surveyRecord).complete n okResult).refreshErase))

/-- SCAN: the scan unit holds the SCAN with its cursor at key_lo, skip count 0 and counts 0, and acts at once at its first entry
boundary; with no key in the window it ends OK with every count 0 and resume key 0 (R137, R138, R147). -/
def Obligations.ScanBegins : Prop :=
  ∀ (s : State) (n : SlotNo) (f : OrderFields), s.part.live = true → s.part.headOrder = some (n, f) →
    dispatchCheck s.part.mounted f = none → f.kind = 4 → s.part.scan = none →
    exec .scan s = .next (s.withPart (Part.refreshErase (Part.scanBoundary
      { s.part.startOrder n with scan := some ⟨n, f, f.key, 0, 0, 0, 0, none, false⟩ })))
    ∧ ((∀ e ∈ s.part.dir, e.key < f.key ∨ f.keyHi < e.key) → exec .scan s = .next (s.withPart
        (((s.part.startOrder n).complete n okResult).refreshErase)))

/-- ENTRY_BOUNDARY with no entry in hand: a pending cut ends the scan PARTIAL / CUT with the cursor as resume key; outside ACTIVE
the walk pauses; otherwise one ordered lookup from the cursor up to key_hi: none ends the scan OK; a GONE entry is passed over; a
LIVE entry with skip count above 0 is passed with the count lowered; a LIVE entry selected in mode ANY is a hit written as 8
bytes, key then sequence, at buffer offset + 8 times the hits, or ends the scan PARTIAL / AREA_FULL when the area has no room;
selected in any other mode it is taken in hand with one on its segment's readers count and its first line asked for, or, its lane
not PRESENT, is found damaged in the same act, the count released (R53, R71, R94, R138, R139, R140, R141, R143). Every ending
writes hits, examined, the damaged count and DAMAGED_SEEN and frees the unit (R108, R147). With no SCAN held, or with an entry in
hand, no boundary is met and nothing changes but the erase requests: the model's choice (log 1). The command is the boundary at
which a SCAN begins and that follows a read. A request placed waits on its lane, or, while a result its requester discards is to
come, is held back (R65, R73; log 23). -/
def Obligations.EntryBoundaryActs : Prop :=
  (∀ (s : State) (o : ScanOrder), s.part.live = true → s.part.scan = some o → o.inHand = none →
    (o.cutPending = true → exec .entryBoundary s = .next (s.withPart (Part.refreshErase
        (s.part.endScan o ⟨.partly, .cut, false, false, 0, 0, 0, 0, 0⟩ o.cursor))))
    ∧ (o.cutPending = false → s.part.power.state ≠ .active → exec .entryBoundary s = .next (s.withPart (s.part.refreshErase)))
    ∧ (o.cutPending = false → s.part.power.state = .active →
        (dirNext s.part.dir o.cursor o.fields.keyHi = none → exec .entryBoundary s = .next (s.withPart (Part.refreshErase
          (s.part.endScan o okResult 0))))
        ∧ ∀ e, dirNext s.part.dir o.cursor o.fields.keyHi = some e →
          (e.gone = true → exec .entryBoundary s = .next (s.withPart (Part.refreshErase
            { s.part with scan := some { o with cursor := e.key + 1, inHand := none } })))
          ∧ (e.gone = false → 0 < o.skip → exec .entryBoundary s = .next (s.withPart (Part.refreshErase
            { s.part with scan := some { o with skip := o.skip - 1, cursor := e.key + 1, inHand := none } })))
          ∧ (e.gone = false → o.skip = 0 → o.fields.mode = 5 → o.hits < o.fields.bufLength.toNat / 8 →
              exec .entryBoundary s = .next (s.withPart (Part.refreshErase
                { s.part.store (o.fields.bufOffset.toNat + 8 * o.hits) (leBytes 4 e.key.toNat ++ leBytes 4 e.sequence.toNat) with
                  scan := some { o with
                    skip := o.fields.step.toNat - 1, hits := o.hits + 1, examined := min 65535 (o.examined + 1),
                    cursor := e.key + 1, inHand := none } })))
          ∧ (e.gone = false → o.skip = 0 → o.fields.mode = 5 → o.fields.bufLength.toNat / 8 ≤ o.hits →
              exec .entryBoundary s = .next (s.withPart (Part.refreshErase
                (s.part.endScan o ⟨.partly, .areaFull, false, false, 0, 0, 0, 0, 0⟩ e.key))))
          ∧ (e.gone = false → o.skip = 0 → o.fields.mode ≠ 5 → s.part.present e.loc.addr.lane = true →
              exec .entryBoundary s = .next (s.withPart (Part.refreshErase
                (Part.place e.loc.addr.lane .scan ⟨.readLine e.loc.addr.seg e.loc.line, false⟩
                  { s.part.takeReader e.loc.addr with
                    scan := some { o with
                      skip := o.fields.step.toNat - 1,
                      inHand := some ⟨e, 0, false, 0, PayloadRun.start, .eq, e.loc.addr⟩ } }))))
          ∧ (e.gone = false → o.skip = 0 → o.fields.mode ≠ 5 → s.part.present e.loc.addr.lane = false →
              exec .entryBoundary s = .next (s.withPart (Part.refreshErase
                { (s.part.takeReader e.loc.addr).releaseReader e.loc.addr with
                  scan := some { o with
                    skip := o.fields.step.toNat - 1, damaged := min 255 (o.damaged + 1),
                    examined := min 65535 (o.examined + 1), cursor := e.key + 1, inHand := none } })))))
  ∧ (∀ s : State, s.part.live = true → (s.part.scan = none ∨ ∃ o, s.part.scan = some o ∧ o.inHand ≠ none) →
    exec .entryBoundary s = .next (s.withPart s.part.refreshErase))
  ∧ (∀ s : State, s.part.live = true → exec .entryBoundary s = .next (s.withPart s.part.scanBoundary.refreshErase))
  ∧ (∀ (p : Part) (o : ScanOrder) (r : Result) (resume : Long), p.endScan o r resume = Part.complete o.slot
      ⟨r.cls, r.reason, r.retried, decide (1 ≤ o.damaged), r.sequence, BitVec.ofNat 16 o.hits, BitVec.ofNat 16 o.examined, resume,
        BitVec.ofNat 8 o.damaged⟩ { p with scan := none })
  ∧ (∀ (p : Part) (a : SegAddr), p.takeReader a = p.modSeg a (fun e => { e with readers := e.readers + 1 })
      ∧ p.releaseReader a = p.modSeg a fun e => { e with readers := e.readers - 1 })
  ∧ ∀ (p : Part) (l : Lane) (rq : Requester) (q : Request),
    let discards := rq ∈ [Requester.record, .scan, .reclaim] ∧ ∃ op ms, (p.lane l).inFlight = some ⟨rq, op, ms, true⟩
    (¬ discards → p.place l rq q = p.setLane l { p.lane l with waiting := (p.lane l).waiting.set rq (some q) })
    ∧ (discards → p.place l rq q = p.setLane l { p.lane l with heldBack := some q })

/-- RECLAIM: in STALLED the order ends FAULT / SATURATED, in HALTED FAULT / RECLAIM_HALTED, in COPYING it is attached to the tail
being walked, and in IDLE with a chain of fewer than two segments it ends OK with freed lines 0, with saturation it ends FAULT
/ SATURATED with the unit STALLED and SATURATED raised, with the lowest chain segment on a lane not PRESENT the unit halts and the
order ends FAULT / RECLAIM_HALTED, and otherwise, that segment CLOSED, it becomes RECLAIMING, the order is attached to it and its
walk begins at line 1 (R42, R150, R156, R158). One neither CLOSED nor on such a lane is not taken, and the order ends OK with freed
lines 0: the model's choice (log 35). -/
def Obligations.ReclaimOrderTaken : Prop :=
  ∀ (s : State) (n : SlotNo) (f : OrderFields), s.part.live = true → s.part.headOrder = some (n, f) →
    dispatchCheck s.part.mounted f = none → f.kind = 5 → s.part.reclaim.attached = none →
    (s.part.reclaim.state = .stalled → exec .reclaim s = .next (s.withPart
        (((s.part.startOrder n).complete n (faultResult .saturated)).refreshErase)))
    ∧ (s.part.reclaim.state = .halted → exec .reclaim s = .next (s.withPart
        (((s.part.startOrder n).complete n (faultResult .reclaimHalted)).refreshErase)))
    ∧ (∀ a, s.part.reclaim.state = .copying → s.part.reclaim.tail = some a → exec .reclaim s = .next (s.withPart
        (Part.refreshErase { s.part.startOrder n with reclaim.attached := some ⟨n, a, none⟩ })))
    ∧ (s.part.reclaim.state = .idle → s.part.chain.length < 2 → exec .reclaim s = .next (s.withPart
        (((s.part.startOrder n).complete n okResult).refreshErase)))
    ∧ (s.part.reclaim.state = .idle → 2 ≤ s.part.chain.length → s.part.saturation = true →
        exec .reclaim s = .next (s.withPart (Part.refreshErase (Part.complete n (faultResult .saturated)
          (Part.raise .saturated { s.part.startOrder n with reclaim.state := .stalled })))))
    ∧ (∀ a e, s.part.reclaim.state = .idle → 2 ≤ s.part.chain.length → s.part.saturation = false →
        lowestEpoch s.part.chain = some (a, e) → s.part.present a.lane = false →
        exec .reclaim s = .next (s.withPart (Part.refreshErase (Part.complete n (faultResult .reclaimHalted)
          (s.part.startOrder n).haltReclaim))))
    ∧ (∀ a e, s.part.reclaim.state = .idle → 2 ≤ s.part.chain.length → s.part.saturation = false →
        lowestEpoch s.part.chain = some (a, e) → s.part.present a.lane = true → e.state ≠ .closed →
        exec .reclaim s = .next (s.withPart (((s.part.startOrder n).complete n okResult).refreshErase)))
    ∧ (∀ a e, s.part.reclaim.state = .idle → 2 ≤ s.part.chain.length → s.part.saturation = false →
        lowestEpoch s.part.chain = some (a, e) → s.part.present a.lane = true → e.state = .closed →
        exec .reclaim s = .next (s.withPart (Part.refreshErase (Part.walk
          { Part.modSeg a (fun e => { e with state := .reclaiming }) (s.part.startOrder n) with
            reclaim.state := .copying, reclaim.tail := some a, reclaim.pos := 1, reclaim.copied := 0, reclaim.inHand := none,
            reclaim.copyWait := false, reclaim.origin := .order, reclaim.attached := some ⟨n, a, none⟩ }))))

/-- FORMAT: with WINH asserted the order ends FAULT / WRITE_INHIBITED and nothing else changes but the erase requests; otherwise
the format control holds it and the reclaim unit is suspended: IDLE, no tail, no latched trigger, no release pending, its waiting
READ LINE and its copy request withdrawn, the record in hand and a copy waiting for room dropped, a RECLAIMING tail CLOSED again
and no other segment changed, the result of a read in flight discarded and what was held back behind it dropped; a request waiting
for room, of which there is none with the record unit free, would be eligible again as reclaim leaves COPYING (R42, R73, R128,
R160). Beside what every dispatch does with the queue, the slot and its phase byte, all else is as it was: the other slots, done
list, last post outcome and configuration, an append in progress, the counters, the other requests, mount, power, the bus port,
the lanes' standing and the rest of memory; the erase requests follow the segment table (R44). -/
def Obligations.FormatSuspends : Prop :=
  ∀ (s : State) (n : SlotNo) (f : OrderFields), s.part.live = true → s.part.headOrder = some (n, f) → f.kind = 6 →
    s.part.record = none → s.part.scan = none → s.part.reclaim.attached = none →
    (s.part.seen.winh = true → exec .format s = .next (s.withPart
        (((s.part.startOrder n).complete n (faultResult .writeInhibited)).refreshErase)))
    ∧ (s.part.seen.winh = false → ∃ t, exec .format s = .next t ∧ t.part.format = some ⟨n, false, [], 0⟩
        ∧ t.part.reclaim.state = .idle ∧ t.part.reclaim.tail = none ∧ t.part.reclaim.latchedTrigger = false
        ∧ t.part.reclaim.releasePending = false ∧ t.part.reclaim.suspended = true ∧ t.part.reclaim.inHand = none
        ∧ t.part.head.copyReq = none ∧ t.part.slot n = ⟨true, .running⟩ ∧ t.part.dir = s.part.dir
        ∧ t.part.orders.postQueue = s.part.orders.postQueue.tail ∧ t.part.head.seqCounter = s.part.head.seqCounter
        ∧ t.part.head.epochCounter = s.part.head.epochCounter ∧ t.part.head.append = s.part.head.append
        ∧ t.part.head.recordsInHead = s.part.head.recordsInHead ∧ t.part.lastHeadLane = s.part.lastHeadLane
        ∧ t.part.reclaim.copyWait = false ∧ t.part.reclaim.attached = none ∧ t.part.mount = s.part.mount
        ∧ t.part.orders = { s.part.orders with
            postQueue := s.part.orders.postQueue.tail, slots := s.part.orders.slots.set n.val ⟨true, .running⟩ n.isLt }
        ∧ t.part.head = { s.part.head with
            copyReq := none,
            orderReq := if s.part.reclaim.state = .copying then s.part.head.orderReq.map fun r => { r with waitingRoom := false }
              else s.part.head.orderReq }
        ∧ t.part.reclaim = { s.part.reclaim with
            state := .idle, tail := none, inHand := none, copyWait := false, latchedTrigger := false, releasePending := false,
            suspended := true }
        ∧ t.part.record = none ∧ t.part.scan = none ∧ t.part.pins = s.part.pins ∧ t.part.seen = s.part.seen
        ∧ t.part.zeroing = s.part.zeroing ∧ t.part.freeIndex = s.part.freeIndex
        ∧ t.part.bus = s.part.bus ∧ t.part.power = s.part.power ∧ t.part.mem = (s.part.startOrder n).mem
        ∧ (∀ a, t.part.seg a = { s.part.seg a with
            state := if s.part.reclaim.tail = some a ∧ (s.part.seg a).state = .reclaiming then .closed else (s.part.seg a).state })
        ∧ ∀ l, (t.part.lane l).waiting.reclaim = none
          ∧ (∀ g, (t.part.lane l).inFlight = some g → g.requester = .reclaim → g.discard = true)
          ∧ (∀ rq ∈ [Requester.mount, .record, .scan, .head], (t.part.lane l).waiting.get rq = (s.part.lane l).waiting.get rq)
          ∧ (t.part.lane l).inFlight.map (fun g => (g.requester, g.op)) = (s.part.lane l).inFlight.map (fun g => (g.requester, g.op))
          ∧ (t.part.lane l).state = (s.part.lane l).state ∧ (t.part.lane l).count = (s.part.lane l).count
          ∧ (t.part.lane l).lastGranted = (s.part.lane l).lastGranted ∧ (t.part.lane l).linkDriven = (s.part.lane l).linkDriven
          ∧ (t.part.lane l).inFlight = (s.part.lane l).inFlight.map (fun g =>
              if g.requester = .reclaim then { g with discard := true } else g)
          ∧ (let discards := ∃ op ms, (s.part.lane l).inFlight = some ⟨.reclaim, op, ms, true⟩
             (discards → (t.part.lane l).heldBack = none) ∧ (¬ discards → (t.part.lane l).heldBack = (s.part.lane l).heldBack)))

/-- FORMAT_TAKE_TABLE with no append in progress: the directory is empty, both counters are 1, records in head 0, the last head lane
3; no segment is in the chain and none is FREE on a PRESENT lane, every claimed count is 0; the mount state is DEGRADED with a lane
OFFLINE, else MOUNTED with a lane PRESENT, else as it was (R33, R55, R161). A segment UNSWEPT, FREE or in ERASE_WAIT on a PRESENT
lane, and every chain segment, is in ERASE_WAIT, its fields but the claimed lines kept; every other keeps its state (R55). The
format control waits on the segments in ERASE_WAIT or ERASING on PRESENT lanes (R161); with none the order completes in the same act
OK with the number that became BAD, the format control free and the reclaim unit IDLE and no longer suspended (R162). -/
def Obligations.FormatTakesTable : Prop :=
  ∀ (s : State) (job : FormatJob), s.part.live = true → s.part.format = some job → job.taken = false →
    s.part.head.append = none →
    ∃ t, exec .formatTakeTable s = .next t
      ∧ t.part.dir = [] ∧ t.part.head.seqCounter = 1 ∧ t.part.head.epochCounter = 1 ∧ t.part.head.recordsInHead = 0
      ∧ t.part.lastHeadLane = 3 ∧ t.part.chain = [] ∧ t.part.freeCount = 0
      ∧ (∀ x ∈ t.part.entries, x.2.claimed = 0)
      ∧ t.part.mount.state = (if ∃ l, (s.part.lane l).state = .offline then .degraded
          else if ∃ l, s.part.present l = true then .mounted else s.part.mount.state)
      ∧ t.part.mount.damaged = s.part.mount.damaged ∧ t.part.mount.outcome = s.part.mount.outcome
      ∧ (∀ a : SegAddr, a.seg < (s.part.segs.get a.lane).length →
          let e := s.part.seg a
          let waits := ((e.state = .unswept ∨ e.state = .free ∨ e.state = .eraseWait) ∧ s.part.present a.lane = true)
            ∨ e.state = .head ∨ e.state = .closed ∨ e.state = .reclaiming
          t.part.seg a = { e with state := if waits then .eraseWait else e.state, claimed := 0 })
      ∧ ∃ set : List SegAddr,
          (∀ a, a ∈ set ↔ ∃ e, (a, e) ∈ t.part.entries ∧ (e.state = .eraseWait ∨ e.state = .erasing)
            ∧ s.part.present a.lane = true)
          ∧ (set ≠ [] → t.part.format = some { job with taken := true, waitSet := set } ∧ t.part.orders = s.part.orders
              ∧ t.part.mem = s.part.mem ∧ t.part.reclaim = s.part.reclaim)
          ∧ (set = [] → t.part.format = none ∧ t.part.reclaim = { Reclaim.reset with attached := s.part.reclaim.attached }
              ∧ t.part.orders = (s.part.complete job.slot { okResult with length := BitVec.ofNat 16 job.bad }).orders
              ∧ t.part.mem = (s.part.complete job.slot { okResult with length := BitVec.ofNat 16 job.bad }).mem)

/-! ## The head writer -/

/-- The arbiter: the record unit's request is eligible in ACTIVE unless it waits for room, the reclaim unit's in ACTIVE with WINH
deasserted; with no append in progress an eligible one is granted, of two the one not last granted, and otherwise
ORDER_APPEND_GRANT changes nothing but the erase requests (R124; log 1). ORDER_APPEND_GRANT of a fresh request into a head with
room, when the arbiter's turn allows it: the sequence counter's value goes to the append and the counter advances by one; the
record begins at the line after the used lines, its first line placed as a starting program on the head's lane (R12, R67, R124,
R125, R127, R131). With WINH asserted the order ends FAULT / WRITE_INHIBITED; with the counter spent it ends FAULT /
SEQUENCE_SPENT and the counter stays. A re-granted request keeps its sequence (R125). An order that ends is completed in the
record unit's slot, the unit free (R108, R118). Placement without room (R127): below the reserve of 2 free segments, 1 for a copy,
an order append waits for room while reclaim is COPYING and it has programmed no line, else ends JOURNAL_FULL (R128); otherwise
the head is closed with its trailer (R129), or, with no head, the segment of the rotation becomes OPENING with the epoch counter's
value, the counter advances, its lane is the last head lane, its header is placed, and the fall of the free count may bring a
trigger; with the epoch counter spent the append ends SEQUENCE_SPENT (R13, R39, R51, R130). -/
def Obligations.OrderGrantAssigns : Prop :=
  (∀ p : Part,
    let order := p.power.state = .active ∧ ∃ r, p.head.orderReq = some r ∧ r.waitingRoom = false
    let copy := p.power.state = .active ∧ p.seen.winh = false ∧ p.head.copyReq ≠ none
    (p.mayGrantOrder = true ↔ p.head.append = none ∧ order ∧ (copy → p.head.lastGranted = .reclaimUnit))
    ∧ (p.mayGrantCopy = true ↔ p.head.append = none ∧ copy ∧ (order → p.head.lastGranted = .recordUnit)))
  ∧ (∀ s : State, s.part.live = true → s.part.mayGrantOrder = false →
    exec .orderAppendGrant s = .next (s.withPart s.part.refreshErase))
  ∧ (∀ (s : State) (r : OrderReq), s.part.live = true → s.part.head.orderReq = some r → s.part.mayGrantOrder = true →
    r.sequence = none →
    let q : Part := { s.part with head.orderReq := none, head.lastGranted := .recordUnit }
    (s.part.seen.winh = true → exec .orderAppendGrant s = .next (s.withPart
        ((q.finishRecord (faultResult .writeInhibited)).refreshErase)))
    ∧ (s.part.seen.winh = false → s.part.head.seqCounter = 0xFFFFFFFF → exec .orderAppendGrant s = .next (s.withPart
        ((q.finishRecord (faultResult .sequenceSpent)).refreshErase)))
    ∧ (∀ a e, s.part.seen.winh = false → s.part.head.seqCounter ≠ 0xFFFFFFFF → s.part.headSeg = some (a, e) →
        e.used + 1 = e.goodEnd → e.used + r.lines ≤ 126 →
        ∃ t first ap, exec .orderAppendGrant s = .next t ∧ t.part.head.seqCounter = s.part.head.seqCounter + 1
          ∧ t.part.head.append = some ap ∧ ap.sequence = s.part.head.seqCounter ∧ ap.work = .order r
          ∧ ap.step = .programming a first ∧ first = e.used + 1 ∧ ap.done = 0 ∧ ap.started = false
          ∧ t.part.head.orderReq = none ∧ t.part.head.lastGranted = .recordUnit
          ∧ (let payload := Mem.readBytes s.part.mem r.bufOffset.toNat (min r.length 240)
             (t.part.lane a.lane).waiting.head = some ⟨.programLine a.seg first (orderLine
               (recordHeader r.tombstone false r.length r.key s.part.head.seqCounter e.epoch) payload r.length 0
               (crc32Feed 0xFFFFFFFF payload)), false⟩)
          ∧ t.part.mem = s.part.mem ∧ t.part.orders = s.part.orders ∧ t.part.dir = s.part.dir ∧ t.part.segs = s.part.segs
          ∧ t.part.head.epochCounter = s.part.head.epochCounter))
  ∧ (∀ (s : State) (r : OrderReq), s.part.live = true → s.part.head.orderReq = some r → s.part.mayGrantOrder = true →
    let q : Part := { s.part with head.orderReq := none, head.lastGranted := .recordUnit }
    (s.part.seen.winh = true → exec .orderAppendGrant s = .next (s.withPart
        ((q.finishRecord { faultResult .writeInhibited with sequence := r.sequence.getD 0 }).refreshErase)))
    ∧ (∀ n, s.part.seen.winh = false → r.sequence = some n → exec .orderAppendGrant s = .next (s.withPart
        ((q.placement ⟨.order r, n, false, .placing, 0, false, 0xFFFFFFFF, none⟩).refreshErase)))
    ∧ (s.part.seen.winh = false → r.sequence = none → s.part.head.seqCounter ≠ 0xFFFFFFFF →
        exec .orderAppendGrant s = .next (s.withPart (Part.refreshErase (Part.placement
          ⟨.order r, s.part.head.seqCounter, false, .placing, 0, false, 0xFFFFFFFF, none⟩
          { q with head.seqCounter := s.part.head.seqCounter + 1 })))))
  ∧ (∀ (p : Part) (a : Append),
    let reserve := match a.work with
      | .order _ => 2
      | .copy _ => 1
    (p.headSeg = none → p.placement a = p.openSegment a)
    ∧ (∀ sg e, p.headSeg = some (sg, e) →
        let room := e.used = e.goodEnd - 1 ∧ e.used + a.work.lines ≤ 126
        (room → p.placement a = p.beginRecord sg (e.used + 1) a)
        ∧ (¬ room → p.freeCount < reserve → p.placement a = p.reserveUnmet a)
        ∧ (¬ room → reserve ≤ p.freeCount → p.placement a = Part.place sg.lane .head
            ⟨.programLine sg.seg 127 (trailer (p.seg sg).epoch (p.seg sg).goodEnd p.head.recordsInHead), a.started⟩
            { p with head.append := some { a with step := .closing sg .noRoom } }))
    ∧ (p.freeCount < reserve → p.openSegment a = p.reserveUnmet a)
    ∧ (reserve ≤ p.freeCount → p.head.epochCounter = 0xFFFFFFFF → p.openSegment a = p.endAppend .sequenceSpent a)
    ∧ (∀ sg, reserve ≤ p.freeCount → p.head.epochCounter ≠ 0xFFFFFFFF → p.rotation = some sg →
        p.openSegment a = Part.compareLow (Part.place sg.lane .head
          ⟨.programLine sg.seg 0 (segmentHeader p.head.epochCounter sg), a.started⟩
          { p.modSeg sg (fun e => { e with state := .opening, epoch := p.head.epochCounter }) with
            head.epochCounter := p.head.epochCounter + 1, lastHeadLane := sg.lane,
            head.append := some { a with step := .opening sg } }))
    ∧ (∀ r, a.work = .order r →
        (a.started = false → p.reclaim.state = .copying → p.reserveUnmet a = { p with
          head.append := none, head.orderReq := some { r with sequence := some a.sequence, waitingRoom := true } })
        ∧ ((a.started = true ∨ p.reclaim.state ≠ .copying) → p.reserveUnmet a = p.endAppend .journalFull a)
        ∧ ∀ why, p.endAppend why a = Part.finishRecord
            { faultResult why.reason with retried := a.repeated, sequence := a.sequence } { p with head.append := none })
    ∧ (∀ c, a.work = .copy c → p.reserveUnmet a = Part.copyAnswer .journalFull { p with head.append := none }
        ∧ p.endAppend .sequenceSpent a = Part.copyAnswer .sequenceSpent { p with head.append := none })
    ∧ AppendEnd.reason .journalFull = .journalFull ∧ AppendEnd.reason .sequenceSpent = .sequenceSpent)
  ∧ ∀ (p : Part) (r : Result), (p.record = none → p.finishRecord r = p)
    ∧ ∀ o, p.record = some o → p.finishRecord r = Part.complete o.slot r { p with record := none }

/-- COPY_GRANT with the claim check in the same act: a copy whose key's entry no longer names its original is discarded, and the
walk moves past its record with the copied lines unchanged; the sequence counter is not advanced by any copy granted into a head
with room, which keeps the original's sequence (R11, R22, R126, R153). A claimed copy is placed as R127 gives, with and without
room (placement, which OrderGrantAssigns unfolds). Out of the arbiter's turn (R124, OrderGrantAssigns) COPY_GRANT changes nothing
but the erase requests (log 1). -/
def Obligations.CopyGrantChecksClaim : Prop :=
  (∀ s : State, s.part.live = true → s.part.mayGrantCopy = false → exec .copyGrant s = .next (s.withPart s.part.refreshErase))
  ∧ ∀ (s : State) (c : CopyReq), s.part.live = true → s.part.head.copyReq = some c → s.part.mayGrantCopy = true →
    let q : Part := { s.part with head.copyReq := none, head.lastGranted := .reclaimUnit }
    ((∀ x, dirLookup s.part.dir c.key = some x → x.loc ≠ c.loc) →
      exec .copyGrant s = .next (s.withPart ((q.copyAnswer .discarded).refreshErase)))
    ∧ (∀ x a e, dirLookup s.part.dir c.key = some x → x.loc = c.loc → s.part.headSeg = some (a, e) → e.used + 1 = e.goodEnd →
        e.used + c.lines ≤ 126 →
        ∃ t ap, exec .copyGrant s = .next t ∧ t.part.head.append = some ap ∧ ap.work = .copy c ∧ ap.sequence = c.sequence
          ∧ ap.step = .programming a (e.used + 1) ∧ t.part.head.seqCounter = s.part.head.seqCounter
          ∧ t.part.head.copyReq = none ∧ t.part.head.lastGranted = .reclaimUnit
          ∧ (t.part.lane a.lane).waiting.head = some ⟨.programLine a.seg (e.used + 1) (copyLine c e.epoch 0), false⟩
          ∧ t.part.mem = s.part.mem ∧ t.part.orders = s.part.orders ∧ t.part.dir = s.part.dir ∧ t.part.segs = s.part.segs)
    ∧ ∀ x, dirLookup s.part.dir c.key = some x → x.loc = c.loc → exec .copyGrant s = .next (s.withPart (Part.refreshErase
        (q.placement ⟨.copy c, c.sequence, false, .placing, 0, false, 0xFFFFFFFF, none⟩)))

/-! ## The journal and the directory -/

/-- The checks of R4 and R5 on the text "123456789", and the payload check of no bytes. A record of payload length up to
4,076 takes from 1 to 16 lines, and k lines take lengths up to 256k - 20 (R8). -/
def Obligations.ChecksAndLineCounts : Prop :=
  (let text : List Byte := [0x31, 0x32, 0x33, 0x34, 0x35, 0x36, 0x37, 0x38, 0x39]
  crc16 text = 0x29B1 ∧ crc32 text = 0xCBF43926 ∧ crc32 [] = 0)
  ∧ (∀ length, length ≤ 4076 → 1 ≤ lineCount length ∧ lineCount length ≤ 16
    ∧ ∀ k, 1 ≤ k → (lineCount length ≤ k ↔ length + 20 ≤ 256 * k))

/-- What the head writer programs into line 0 and line 127 is judged valid when read back, with the same epoch, good end and
record count (R6, R10). The first 16 bytes the head writer gives a record read back as its fields, pass the header check, and are
header-valid at any line the record fits from (R7, R9). What is judged so, whatever was read: a blank line, a valid segment
header, a valid trailer, a record's header fields, its header check and a header-valid record, each exactly by the conditions of
its rule (R2, R4, R6, R7, R9, R10). -/
def Obligations.StoredHeadersReadBack : Prop :=
  (∀ (a : SegAddr) (epoch : Long) (goodEnd records : Nat), a.seg < 1024 → epoch ≠ 0 → epoch ≠ 0xFFFFFFFF →
    judgeHeader a (segmentHeader epoch a) = .valid epoch ∧ (segmentHeader epoch a).length = 256
      ∧ (1 ≤ goodEnd → goodEnd ≤ 127 → records ≤ goodEnd - 1 →
          judgeTrailer epoch (trailer epoch goodEnd records) = some (goodEnd, records)
            ∧ (trailer epoch goodEnd records).length = 256))
  ∧ (∀ (tomb copied : Bool) (length n : Nat) (key sequence epoch : Long) (rest : List Byte),
    length ≤ 4076 → (tomb = true → length = 0) → key ≠ 0 → key ≠ 0xFFFFFFFF → sequence ≠ 0 → sequence ≠ 0xFFFFFFFF →
    n + lineCount length ≤ 127 →
    let bytes := recordHeader tomb copied length key sequence epoch ++ rest
    headerCheckOk bytes = true ∧ headerValid epoch n bytes = true
      ∧ (readHeader bytes).key = key ∧ (readHeader bytes).sequence = sequence ∧ (readHeader bytes).length = length
      ∧ (readHeader bytes).kind = (if tomb then 2 else 1) ∧ (readHeader bytes).flags = (if copied then 1 else 0)
      ∧ (readHeader bytes).tag = epoch.extractLsb' 0 16)
  ∧ ∀ (bytes : List Byte) (a : SegAddr) (epoch : Long) (n : Nat),
    let field := fun (offset k : Nat) => leNat ((bytes.drop offset).take k)
    let valid := fun (v : Long) => v ≠ 0 ∧ v ≠ 0xFFFFFFFF
    let h := readHeader bytes
    (blankLine bytes = true ↔ ∀ b ∈ bytes, b = 0xFF)
    ∧ (judgeHeader a bytes = .blank ↔ blankLine bytes = true)
    ∧ (judgeHeader a bytes = .valid epoch ↔ blankLine bytes = false ∧ field 0 4 = 0x5A3C96E1 ∧ field 4 4 = epoch.toNat ∧ valid epoch
        ∧ field 8 2 = a.seg ∧ field 10 1 = a.lane.val ∧ field 11 2 = (crc16 (bytes.take 11)).toNat)
    ∧ (∀ g k, judgeTrailer epoch bytes = some (g, k) ↔ field 0 4 = 0xE1963C5A ∧ field 4 4 = epoch.toNat ∧ field 8 1 = g
        ∧ field 9 2 = k ∧ field 11 2 = (crc16 (bytes.take 11)).toNat ∧ 1 ≤ g ∧ g ≤ 127 ∧ k ≤ 126 ∧ k ≤ g - 1)
    ∧ (headerCheckOk bytes = true ↔ field 14 2 = (crc16 (bytes.take 14)).toNat)
    ∧ (h.kind = bytes.getD 0 0 ∧ h.flags = bytes.getD 1 0 ∧ h.length = field 2 2 ∧ h.key.toNat = field 4 4
        ∧ h.sequence.toNat = field 8 4 ∧ h.tag.toNat = field 12 2)
    ∧ (headerValid epoch n bytes = true ↔ headerCheckOk bytes = true ∧ (h.kind = 1 ∨ h.kind = 2) ∧ h.flags &&& 0xFE = 0
        ∧ h.length ≤ 4076 ∧ (h.kind = 2 → h.length = 0) ∧ valid h.key ∧ valid h.sequence ∧ h.tag = epoch.extractLsb' 0 16
        ∧ n + lineCount h.length - 1 ≤ 126)

/-- An insert or update leaves the directory in ascending key order, gives the key exactly the new entry, and leaves every other
key's entry as it was; a removal leaves the key absent and the others as they were (R16, R20, R23, R24, R27). The ordered lookup
answers the entry of lowest key from the cursor up to the bound: it lies in the window, no entry of the window has a lower key,
and none is answered only when the window holds no entry (R21). A record that mount accepts is inserted for a key without an
entry, unless 4,096 are there, and replaces an entry of a sequence not higher (R31, R32). -/
def Obligations.DirectoryOrder : Prop :=
  (∀ (d : List DirEntry), dirSorted d = true →
    (∀ e : DirEntry, dirSorted (dirPut e d) = true ∧ dirLookup (dirPut e d) e.key = some e
      ∧ (∀ k, k ≠ e.key → dirLookup (dirPut e d) k = dirLookup d k)
      ∧ (dirPut e d).length = d.length + (if (dirLookup d e.key).isSome then 0 else 1))
    ∧ ∀ key : Long, dirSorted (dirRemove key d) = true ∧ dirLookup (dirRemove key d) key = none
      ∧ ∀ k, k ≠ key → dirLookup (dirRemove key d) k = dirLookup d k)
  ∧ (∀ (d : List DirEntry) (cursor bound : Long), dirSorted d = true →
    (∀ e, dirNext d cursor bound = some e → e ∈ d ∧ cursor ≤ e.key ∧ e.key ≤ bound
      ∧ ∀ x ∈ d, cursor ≤ x.key → x.key ≤ bound → e.key ≤ x.key)
    ∧ (dirNext d cursor bound = none → ∀ x ∈ d, ¬ (cursor ≤ x.key ∧ x.key ≤ bound)))
  ∧ ∀ (e : DirEntry) (d : List DirEntry),
    (dirLookup d e.key = none → dirMount e d = if 4096 ≤ d.length then none else some (dirPut e d))
    ∧ ∀ old, dirLookup d e.key = some old → dirMount e d = some (if old.sequence ≤ e.sequence then dirPut e d else d)

/-- The rotation takes the first PRESENT lane with a FREE segment in the order last head lane + 1, + 2, + 3, + 4 modulo 4, and on
it the FREE segment of lowest index; it answers none exactly when no PRESENT lane has one, that is, when the free count is 0 (R49,
R50). The chain is the segments HEAD, CLOSED and RECLAIMING, its tail the one of lowest epoch and its youngest the one of highest
(R48), and the free count is the number of FREE segments on PRESENT lanes (R50). -/
def Obligations.RotationChooses : Prop :=
  (∀ p : Part,
    (∀ a, p.rotation = some a → p.present a.lane = true
      ∧ (∃ e, (p.segs.get a.lane)[a.seg]? = some e ∧ e.state = .free)
      ∧ (∀ i e, i < a.seg → (p.segs.get a.lane)[i]? = some e → e.state ≠ .free)
      ∧ ∃ k : Fin 4, a.lane = p.lastHeadLane + 1 + k ∧ ∀ j : Fin 4, j < k → p.freeOn (p.lastHeadLane + 1 + j) = none)
    ∧ (p.rotation = none ↔ p.freeCount = 0))
  ∧ (∀ (p : Part) (a : SegAddr) (e : SegEntry),
    ((a, e) ∈ p.entries ↔ (p.segs.get a.lane)[a.seg]? = some e)
    ∧ ((a, e) ∈ p.entries → p.seg a = e)
    ∧ ((a, e) ∈ p.chain ↔ (a, e) ∈ p.entries ∧ (e.state = .head ∨ e.state = .closed ∨ e.state = .reclaiming))
    ∧ (p.headSeg = some (a, e) → (a, e) ∈ p.entries ∧ e.state = .head)
    ∧ (p.headSeg = none ↔ ∀ x ∈ p.entries, x.2.state ≠ .head)
    ∧ p.freeCount = p.entries.countP fun x => x.2.state == .free && p.present x.1.lane)
  ∧ ∀ xs : List (SegAddr × SegEntry),
    (lowestEpoch xs = none ↔ xs = []) ∧ (highestEpoch xs = none ↔ xs = [])
    ∧ (∀ x, lowestEpoch xs = some x → x ∈ xs ∧ ∀ y ∈ xs, x.2.epoch ≤ y.2.epoch)
    ∧ (∀ x, highestEpoch xs = some x → x ∈ xs ∧ ∀ y ∈ xs, y.2.epoch ≤ x.2.epoch)
end

