-- ==== Sys2Proof/Laws/State.lean ====
section
/-! SUPPORT. What each named update of the part leaves as it was, one lemma an operation, true by `rfl`: the fields it does not
write, so that no proof unfolds a record update. -/

namespace Sys2Proof.Machine

@[simp] theorem Part.store_frame (p : Part) (a : Nat) (bytes : List Byte) :
    (p.store a bytes).pins = p.pins ∧ (p.store a bytes).seen = p.seen ∧ (p.store a bytes).bus = p.bus
    ∧ (p.store a bytes).zeroing = p.zeroing ∧ (p.store a bytes).orders = p.orders ∧ (p.store a bytes).format = p.format
    ∧ (p.store a bytes).record = p.record ∧ (p.store a bytes).scan = p.scan ∧ (p.store a bytes).head = p.head
    ∧ (p.store a bytes).dir = p.dir ∧ (p.store a bytes).segs = p.segs ∧ (p.store a bytes).lastHeadLane = p.lastHeadLane
    ∧ (p.store a bytes).lanes = p.lanes ∧ (p.store a bytes).reclaim = p.reclaim ∧ (p.store a bytes).mount = p.mount
    ∧ (p.store a bytes).power = p.power ∧ (p.store a bytes).freeIndex = p.freeIndex := by
  refine ⟨rfl, rfl, rfl, rfl, rfl, rfl, rfl, rfl, rfl, rfl, rfl, rfl, rfl, rfl, rfl, rfl, rfl⟩

@[simp] theorem Part.raise_frame (p : Part) (n : Sticky) :
    (p.raise n).pins = p.pins ∧ (p.raise n).seen = p.seen ∧ (p.raise n).bus.busSel = p.bus.busSel
    ∧ (p.raise n).bus.byteOrd = p.bus.byteOrd ∧ (p.raise n).bus.sid = p.bus.sid ∧ (p.raise n).bus.cfgSel = p.bus.cfgSel
    ∧ (p.raise n).bus.pointer = p.bus.pointer ∧ (p.raise n).bus.winStart = p.bus.winStart
    ∧ (p.raise n).bus.winEnd = p.bus.winEnd ∧ (p.raise n).bus.readLatch = p.bus.readLatch
    ∧ (p.raise n).bus.writeHold = p.bus.writeHold ∧ (p.raise n).bus.readCapture = p.bus.readCapture
    ∧ (p.raise n).bus.holdLevel = p.bus.holdLevel ∧ (p.raise n).bus.parkLevel = p.bus.parkLevel
    ∧ (p.raise n).bus.mask = p.bus.mask ∧ (p.raise n).bus.serial = p.bus.serial ∧ (p.raise n).bus.dataOut = p.bus.dataOut
    ∧ (p.raise n).zeroing = p.zeroing ∧ (p.raise n).mem = p.mem ∧ (p.raise n).orders = p.orders
    ∧ (p.raise n).format = p.format ∧ (p.raise n).record = p.record ∧ (p.raise n).scan = p.scan
    ∧ (p.raise n).head = p.head ∧ (p.raise n).dir = p.dir ∧ (p.raise n).segs = p.segs
    ∧ (p.raise n).lastHeadLane = p.lastHeadLane ∧ (p.raise n).lanes = p.lanes ∧ (p.raise n).reclaim = p.reclaim
    ∧ (p.raise n).mount = p.mount ∧ (p.raise n).power = p.power ∧ (p.raise n).freeIndex = p.freeIndex := by
  refine ⟨rfl, rfl, rfl, rfl, rfl, rfl, rfl, rfl, rfl, rfl, rfl, rfl, rfl, rfl, rfl, rfl, rfl, rfl, rfl, rfl, rfl, rfl, rfl, rfl, rfl, rfl, rfl, rfl, rfl, rfl, rfl, rfl⟩

@[simp] theorem Part.setLane_frame (p : Part) (l : Lane) (r : LaneRec) :
    (p.setLane l r).pins = p.pins ∧ (p.setLane l r).seen = p.seen ∧ (p.setLane l r).bus = p.bus
    ∧ (p.setLane l r).zeroing = p.zeroing ∧ (p.setLane l r).mem = p.mem ∧ (p.setLane l r).orders = p.orders
    ∧ (p.setLane l r).format = p.format ∧ (p.setLane l r).record = p.record ∧ (p.setLane l r).scan = p.scan
    ∧ (p.setLane l r).head = p.head ∧ (p.setLane l r).dir = p.dir ∧ (p.setLane l r).segs = p.segs
    ∧ (p.setLane l r).lastHeadLane = p.lastHeadLane ∧ (p.setLane l r).reclaim = p.reclaim
    ∧ (p.setLane l r).mount = p.mount ∧ (p.setLane l r).power = p.power ∧ (p.setLane l r).freeIndex = p.freeIndex := by
  refine ⟨rfl, rfl, rfl, rfl, rfl, rfl, rfl, rfl, rfl, rfl, rfl, rfl, rfl, rfl, rfl, rfl, rfl⟩

@[simp] theorem Part.place_frame (p : Part) (l : Lane) (rq : Requester) (r : Request) :
    (p.place l rq r).pins = p.pins ∧ (p.place l rq r).seen = p.seen ∧ (p.place l rq r).bus = p.bus
    ∧ (p.place l rq r).zeroing = p.zeroing ∧ (p.place l rq r).mem = p.mem ∧ (p.place l rq r).orders = p.orders
    ∧ (p.place l rq r).format = p.format ∧ (p.place l rq r).record = p.record ∧ (p.place l rq r).scan = p.scan
    ∧ (p.place l rq r).head = p.head ∧ (p.place l rq r).dir = p.dir ∧ (p.place l rq r).segs = p.segs
    ∧ (p.place l rq r).lastHeadLane = p.lastHeadLane ∧ (p.place l rq r).reclaim = p.reclaim
    ∧ (p.place l rq r).mount = p.mount ∧ (p.place l rq r).power = p.power ∧ (p.place l rq r).freeIndex = p.freeIndex := by
  refine ⟨rfl, rfl, rfl, rfl, rfl, rfl, rfl, rfl, rfl, rfl, rfl, rfl, rfl, rfl, rfl, rfl, rfl⟩

@[simp] theorem Part.withdraw_frame (p : Part) (l : Lane) (rq : Requester) :
    (p.withdraw l rq).pins = p.pins ∧ (p.withdraw l rq).seen = p.seen ∧ (p.withdraw l rq).bus = p.bus
    ∧ (p.withdraw l rq).zeroing = p.zeroing ∧ (p.withdraw l rq).mem = p.mem ∧ (p.withdraw l rq).orders = p.orders
    ∧ (p.withdraw l rq).format = p.format ∧ (p.withdraw l rq).record = p.record ∧ (p.withdraw l rq).scan = p.scan
    ∧ (p.withdraw l rq).head = p.head ∧ (p.withdraw l rq).dir = p.dir ∧ (p.withdraw l rq).segs = p.segs
    ∧ (p.withdraw l rq).lastHeadLane = p.lastHeadLane ∧ (p.withdraw l rq).reclaim = p.reclaim
    ∧ (p.withdraw l rq).mount = p.mount ∧ (p.withdraw l rq).power = p.power ∧ (p.withdraw l rq).freeIndex = p.freeIndex := by
  refine ⟨rfl, rfl, rfl, rfl, rfl, rfl, rfl, rfl, rfl, rfl, rfl, rfl, rfl, rfl, rfl, rfl, rfl⟩

@[simp] theorem Part.dropWork_frame (p : Part) (rq : Requester) :
    (p.dropWork rq).pins = p.pins ∧ (p.dropWork rq).seen = p.seen ∧ (p.dropWork rq).bus = p.bus
    ∧ (p.dropWork rq).zeroing = p.zeroing ∧ (p.dropWork rq).mem = p.mem ∧ (p.dropWork rq).orders = p.orders
    ∧ (p.dropWork rq).format = p.format ∧ (p.dropWork rq).record = p.record ∧ (p.dropWork rq).scan = p.scan
    ∧ (p.dropWork rq).head = p.head ∧ (p.dropWork rq).dir = p.dir ∧ (p.dropWork rq).segs = p.segs
    ∧ (p.dropWork rq).lastHeadLane = p.lastHeadLane ∧ (p.dropWork rq).reclaim = p.reclaim
    ∧ (p.dropWork rq).mount = p.mount ∧ (p.dropWork rq).power = p.power ∧ (p.dropWork rq).freeIndex = p.freeIndex := by
  refine ⟨rfl, rfl, rfl, rfl, rfl, rfl, rfl, rfl, rfl, rfl, rfl, rfl, rfl, rfl, rfl, rfl, rfl⟩

@[simp] theorem Part.modSeg_frame (p : Part) (a : SegAddr) (f : SegEntry → SegEntry) :
    (p.modSeg a f).pins = p.pins ∧ (p.modSeg a f).seen = p.seen ∧ (p.modSeg a f).bus = p.bus
    ∧ (p.modSeg a f).zeroing = p.zeroing ∧ (p.modSeg a f).mem = p.mem ∧ (p.modSeg a f).orders = p.orders
    ∧ (p.modSeg a f).format = p.format ∧ (p.modSeg a f).record = p.record ∧ (p.modSeg a f).scan = p.scan
    ∧ (p.modSeg a f).head = p.head ∧ (p.modSeg a f).dir = p.dir ∧ (p.modSeg a f).lastHeadLane = p.lastHeadLane
    ∧ (p.modSeg a f).lanes = p.lanes ∧ (p.modSeg a f).reclaim = p.reclaim ∧ (p.modSeg a f).mount = p.mount
    ∧ (p.modSeg a f).power = p.power ∧ (p.modSeg a f).freeIndex = p.freeIndex := by
  refine ⟨rfl, rfl, rfl, rfl, rfl, rfl, rfl, rfl, rfl, rfl, rfl, rfl, rfl, rfl, rfl, rfl, rfl⟩

@[simp] theorem Part.takeReader_frame (p : Part) (a : SegAddr) :
    (p.takeReader a).pins = p.pins ∧ (p.takeReader a).seen = p.seen ∧ (p.takeReader a).bus = p.bus
    ∧ (p.takeReader a).zeroing = p.zeroing ∧ (p.takeReader a).mem = p.mem ∧ (p.takeReader a).orders = p.orders
    ∧ (p.takeReader a).format = p.format ∧ (p.takeReader a).record = p.record ∧ (p.takeReader a).scan = p.scan
    ∧ (p.takeReader a).head = p.head ∧ (p.takeReader a).dir = p.dir ∧ (p.takeReader a).lastHeadLane = p.lastHeadLane
    ∧ (p.takeReader a).lanes = p.lanes ∧ (p.takeReader a).reclaim = p.reclaim ∧ (p.takeReader a).mount = p.mount
    ∧ (p.takeReader a).power = p.power ∧ (p.takeReader a).freeIndex = p.freeIndex := by
  refine ⟨rfl, rfl, rfl, rfl, rfl, rfl, rfl, rfl, rfl, rfl, rfl, rfl, rfl, rfl, rfl, rfl, rfl⟩

@[simp] theorem Part.releaseReader_frame (p : Part) (a : SegAddr) :
    (p.releaseReader a).pins = p.pins ∧ (p.releaseReader a).seen = p.seen ∧ (p.releaseReader a).bus = p.bus
    ∧ (p.releaseReader a).zeroing = p.zeroing ∧ (p.releaseReader a).mem = p.mem ∧ (p.releaseReader a).orders = p.orders
    ∧ (p.releaseReader a).format = p.format ∧ (p.releaseReader a).record = p.record ∧ (p.releaseReader a).scan = p.scan
    ∧ (p.releaseReader a).head = p.head ∧ (p.releaseReader a).dir = p.dir
    ∧ (p.releaseReader a).lastHeadLane = p.lastHeadLane ∧ (p.releaseReader a).lanes = p.lanes
    ∧ (p.releaseReader a).reclaim = p.reclaim ∧ (p.releaseReader a).mount = p.mount ∧ (p.releaseReader a).power = p.power
    ∧ (p.releaseReader a).freeIndex = p.freeIndex := by
  refine ⟨rfl, rfl, rfl, rfl, rfl, rfl, rfl, rfl, rfl, rfl, rfl, rfl, rfl, rfl, rfl, rfl, rfl⟩

@[simp] theorem Part.loseClaim_frame (p : Part) (a : SegAddr) (n : Nat) :
    (p.loseClaim a n).pins = p.pins ∧ (p.loseClaim a n).seen = p.seen ∧ (p.loseClaim a n).bus = p.bus
    ∧ (p.loseClaim a n).zeroing = p.zeroing ∧ (p.loseClaim a n).mem = p.mem ∧ (p.loseClaim a n).orders = p.orders
    ∧ (p.loseClaim a n).format = p.format ∧ (p.loseClaim a n).record = p.record ∧ (p.loseClaim a n).scan = p.scan
    ∧ (p.loseClaim a n).head = p.head ∧ (p.loseClaim a n).dir = p.dir ∧ (p.loseClaim a n).lastHeadLane = p.lastHeadLane
    ∧ (p.loseClaim a n).lanes = p.lanes ∧ (p.loseClaim a n).reclaim = p.reclaim ∧ (p.loseClaim a n).mount = p.mount
    ∧ (p.loseClaim a n).power = p.power ∧ (p.loseClaim a n).freeIndex = p.freeIndex := by
  refine ⟨rfl, rfl, rfl, rfl, rfl, rfl, rfl, rfl, rfl, rfl, rfl, rfl, rfl, rfl, rfl, rfl, rfl⟩

@[simp] theorem Part.gainClaim_frame (p : Part) (a : SegAddr) (n : Nat) :
    (p.gainClaim a n).pins = p.pins ∧ (p.gainClaim a n).seen = p.seen ∧ (p.gainClaim a n).bus = p.bus
    ∧ (p.gainClaim a n).zeroing = p.zeroing ∧ (p.gainClaim a n).mem = p.mem ∧ (p.gainClaim a n).orders = p.orders
    ∧ (p.gainClaim a n).format = p.format ∧ (p.gainClaim a n).record = p.record ∧ (p.gainClaim a n).scan = p.scan
    ∧ (p.gainClaim a n).head = p.head ∧ (p.gainClaim a n).dir = p.dir ∧ (p.gainClaim a n).lastHeadLane = p.lastHeadLane
    ∧ (p.gainClaim a n).lanes = p.lanes ∧ (p.gainClaim a n).reclaim = p.reclaim ∧ (p.gainClaim a n).mount = p.mount
    ∧ (p.gainClaim a n).power = p.power ∧ (p.gainClaim a n).freeIndex = p.freeIndex := by
  refine ⟨rfl, rfl, rfl, rfl, rfl, rfl, rfl, rfl, rfl, rfl, rfl, rfl, rfl, rfl, rfl, rfl, rfl⟩

@[simp] theorem Part.mapSegs_frame (p : Part) (f : SegAddr → SegEntry → SegEntry) :
    (p.mapSegs f).pins = p.pins ∧ (p.mapSegs f).seen = p.seen ∧ (p.mapSegs f).bus = p.bus
    ∧ (p.mapSegs f).zeroing = p.zeroing ∧ (p.mapSegs f).mem = p.mem ∧ (p.mapSegs f).orders = p.orders
    ∧ (p.mapSegs f).format = p.format ∧ (p.mapSegs f).record = p.record ∧ (p.mapSegs f).scan = p.scan
    ∧ (p.mapSegs f).head = p.head ∧ (p.mapSegs f).dir = p.dir ∧ (p.mapSegs f).lastHeadLane = p.lastHeadLane
    ∧ (p.mapSegs f).lanes = p.lanes ∧ (p.mapSegs f).reclaim = p.reclaim ∧ (p.mapSegs f).mount = p.mount
    ∧ (p.mapSegs f).power = p.power ∧ (p.mapSegs f).freeIndex = p.freeIndex := by
  refine ⟨rfl, rfl, rfl, rfl, rfl, rfl, rfl, rfl, rfl, rfl, rfl, rfl, rfl, rfl, rfl, rfl, rfl⟩

@[simp] theorem Part.writePhase_frame (p : Part) (n : SlotNo) (b : Byte) :
    (p.writePhase n b).pins = p.pins ∧ (p.writePhase n b).seen = p.seen ∧ (p.writePhase n b).bus = p.bus
    ∧ (p.writePhase n b).zeroing = p.zeroing ∧ (p.writePhase n b).orders = p.orders ∧ (p.writePhase n b).format = p.format
    ∧ (p.writePhase n b).record = p.record ∧ (p.writePhase n b).scan = p.scan ∧ (p.writePhase n b).head = p.head
    ∧ (p.writePhase n b).dir = p.dir ∧ (p.writePhase n b).segs = p.segs ∧ (p.writePhase n b).lastHeadLane = p.lastHeadLane
    ∧ (p.writePhase n b).lanes = p.lanes ∧ (p.writePhase n b).reclaim = p.reclaim ∧ (p.writePhase n b).mount = p.mount
    ∧ (p.writePhase n b).power = p.power ∧ (p.writePhase n b).freeIndex = p.freeIndex := by
  simp [Part.writePhase]

@[simp] theorem Part.writeResult_frame (p : Part) (n : SlotNo) (r : Result) :
    (p.writeResult n r).pins = p.pins ∧ (p.writeResult n r).seen = p.seen ∧ (p.writeResult n r).bus = p.bus
    ∧ (p.writeResult n r).zeroing = p.zeroing ∧ (p.writeResult n r).orders = p.orders
    ∧ (p.writeResult n r).format = p.format ∧ (p.writeResult n r).record = p.record ∧ (p.writeResult n r).scan = p.scan
    ∧ (p.writeResult n r).head = p.head ∧ (p.writeResult n r).dir = p.dir ∧ (p.writeResult n r).segs = p.segs
    ∧ (p.writeResult n r).lastHeadLane = p.lastHeadLane ∧ (p.writeResult n r).lanes = p.lanes
    ∧ (p.writeResult n r).reclaim = p.reclaim ∧ (p.writeResult n r).mount = p.mount ∧ (p.writeResult n r).power = p.power
    ∧ (p.writeResult n r).freeIndex = p.freeIndex := by
  simp [Part.writeResult]

@[simp] theorem Part.setSlot_frame (p : Part) (n : SlotNo) (e : SlotEntry) :
    (p.setSlot n e).pins = p.pins ∧ (p.setSlot n e).seen = p.seen ∧ (p.setSlot n e).bus = p.bus
    ∧ (p.setSlot n e).zeroing = p.zeroing ∧ (p.setSlot n e).mem = p.mem
    ∧ (p.setSlot n e).orders.postQueue = p.orders.postQueue ∧ (p.setSlot n e).orders.doneList = p.orders.doneList
    ∧ (p.setSlot n e).orders.lastPost = p.orders.lastPost ∧ (p.setSlot n e).orders.intake = p.orders.intake
    ∧ (p.setSlot n e).orders.lowMark = p.orders.lowMark ∧ (p.setSlot n e).orders.highMark = p.orders.highMark
    ∧ (p.setSlot n e).orders.postMark = p.orders.postMark ∧ (p.setSlot n e).format = p.format
    ∧ (p.setSlot n e).record = p.record ∧ (p.setSlot n e).scan = p.scan ∧ (p.setSlot n e).head = p.head
    ∧ (p.setSlot n e).dir = p.dir ∧ (p.setSlot n e).segs = p.segs ∧ (p.setSlot n e).lastHeadLane = p.lastHeadLane
    ∧ (p.setSlot n e).lanes = p.lanes ∧ (p.setSlot n e).reclaim = p.reclaim ∧ (p.setSlot n e).mount = p.mount
    ∧ (p.setSlot n e).power = p.power ∧ (p.setSlot n e).freeIndex = p.freeIndex := by
  refine ⟨rfl, rfl, rfl, rfl, rfl, rfl, rfl, rfl, rfl, rfl, rfl, rfl, rfl, rfl, rfl, rfl, rfl, rfl, rfl, rfl, rfl, rfl, rfl, rfl⟩

@[simp] theorem Part.complete_frame (p : Part) (n : SlotNo) (r : Result) :
    (p.complete n r).pins = p.pins ∧ (p.complete n r).seen = p.seen ∧ (p.complete n r).bus = p.bus
    ∧ (p.complete n r).zeroing = p.zeroing ∧ (p.complete n r).orders.postQueue = p.orders.postQueue
    ∧ (p.complete n r).orders.lastPost = p.orders.lastPost ∧ (p.complete n r).orders.intake = p.orders.intake
    ∧ (p.complete n r).orders.lowMark = p.orders.lowMark ∧ (p.complete n r).orders.highMark = p.orders.highMark
    ∧ (p.complete n r).orders.postMark = p.orders.postMark ∧ (p.complete n r).format = p.format
    ∧ (p.complete n r).record = p.record ∧ (p.complete n r).scan = p.scan ∧ (p.complete n r).head = p.head
    ∧ (p.complete n r).dir = p.dir ∧ (p.complete n r).segs = p.segs ∧ (p.complete n r).lastHeadLane = p.lastHeadLane
    ∧ (p.complete n r).lanes = p.lanes ∧ (p.complete n r).reclaim = p.reclaim ∧ (p.complete n r).mount = p.mount
    ∧ (p.complete n r).power = p.power ∧ (p.complete n r).freeIndex = p.freeIndex := by
  simp [Part.complete]

@[simp] theorem Part.postOutcome_frame (p : Part) (o : PostOutcome) :
    (p.postOutcome o).pins = p.pins ∧ (p.postOutcome o).seen = p.seen ∧ (p.postOutcome o).bus = p.bus
    ∧ (p.postOutcome o).zeroing = p.zeroing ∧ (p.postOutcome o).mem = p.mem
    ∧ (p.postOutcome o).orders.slots = p.orders.slots ∧ (p.postOutcome o).orders.postQueue = p.orders.postQueue
    ∧ (p.postOutcome o).orders.doneList = p.orders.doneList ∧ (p.postOutcome o).orders.intake = p.orders.intake
    ∧ (p.postOutcome o).orders.lowMark = p.orders.lowMark ∧ (p.postOutcome o).orders.highMark = p.orders.highMark
    ∧ (p.postOutcome o).orders.postMark = p.orders.postMark ∧ (p.postOutcome o).format = p.format
    ∧ (p.postOutcome o).record = p.record ∧ (p.postOutcome o).scan = p.scan ∧ (p.postOutcome o).head = p.head
    ∧ (p.postOutcome o).dir = p.dir ∧ (p.postOutcome o).segs = p.segs ∧ (p.postOutcome o).lastHeadLane = p.lastHeadLane
    ∧ (p.postOutcome o).lanes = p.lanes ∧ (p.postOutcome o).reclaim = p.reclaim ∧ (p.postOutcome o).mount = p.mount
    ∧ (p.postOutcome o).power = p.power ∧ (p.postOutcome o).freeIndex = p.freeIndex := by
  refine ⟨rfl, rfl, rfl, rfl, rfl, rfl, rfl, rfl, rfl, rfl, rfl, rfl, rfl, rfl, rfl, rfl, rfl, rfl, rfl, rfl, rfl, rfl, rfl, rfl⟩

@[simp] theorem Part.startOrder_frame (p : Part) (n : SlotNo) :
    (p.startOrder n).pins = p.pins ∧ (p.startOrder n).seen = p.seen ∧ (p.startOrder n).bus = p.bus
    ∧ (p.startOrder n).zeroing = p.zeroing ∧ (p.startOrder n).orders.doneList = p.orders.doneList
    ∧ (p.startOrder n).orders.lastPost = p.orders.lastPost ∧ (p.startOrder n).orders.intake = p.orders.intake
    ∧ (p.startOrder n).orders.lowMark = p.orders.lowMark ∧ (p.startOrder n).orders.highMark = p.orders.highMark
    ∧ (p.startOrder n).orders.postMark = p.orders.postMark ∧ (p.startOrder n).format = p.format
    ∧ (p.startOrder n).record = p.record ∧ (p.startOrder n).scan = p.scan ∧ (p.startOrder n).head = p.head
    ∧ (p.startOrder n).dir = p.dir ∧ (p.startOrder n).segs = p.segs ∧ (p.startOrder n).lastHeadLane = p.lastHeadLane
    ∧ (p.startOrder n).lanes = p.lanes ∧ (p.startOrder n).reclaim = p.reclaim ∧ (p.startOrder n).mount = p.mount
    ∧ (p.startOrder n).power = p.power ∧ (p.startOrder n).freeIndex = p.freeIndex := by
  simp [Part.startOrder]

@[simp] theorem Part.drive_frame (p : Part) (out : Option Word) :
    (p.drive out).pins = p.pins ∧ (p.drive out).seen = p.seen ∧ (p.drive out).bus.busSel = p.bus.busSel
    ∧ (p.drive out).bus.byteOrd = p.bus.byteOrd ∧ (p.drive out).bus.sid = p.bus.sid
    ∧ (p.drive out).bus.cfgSel = p.bus.cfgSel ∧ (p.drive out).bus.pointer = p.bus.pointer
    ∧ (p.drive out).bus.winStart = p.bus.winStart ∧ (p.drive out).bus.winEnd = p.bus.winEnd
    ∧ (p.drive out).bus.readLatch = p.bus.readLatch ∧ (p.drive out).bus.writeHold = p.bus.writeHold
    ∧ (p.drive out).bus.readCapture = p.bus.readCapture ∧ (p.drive out).bus.holdLevel = p.bus.holdLevel
    ∧ (p.drive out).bus.parkLevel = p.bus.parkLevel ∧ (p.drive out).bus.sticky = p.bus.sticky
    ∧ (p.drive out).bus.mask = p.bus.mask ∧ (p.drive out).bus.serial = p.bus.serial ∧ (p.drive out).zeroing = p.zeroing
    ∧ (p.drive out).mem = p.mem ∧ (p.drive out).orders = p.orders ∧ (p.drive out).format = p.format
    ∧ (p.drive out).record = p.record ∧ (p.drive out).scan = p.scan ∧ (p.drive out).head = p.head
    ∧ (p.drive out).dir = p.dir ∧ (p.drive out).segs = p.segs ∧ (p.drive out).lastHeadLane = p.lastHeadLane
    ∧ (p.drive out).lanes = p.lanes ∧ (p.drive out).reclaim = p.reclaim ∧ (p.drive out).mount = p.mount
    ∧ (p.drive out).power = p.power ∧ (p.drive out).freeIndex = p.freeIndex := by
  refine ⟨rfl, rfl, rfl, rfl, rfl, rfl, rfl, rfl, rfl, rfl, rfl, rfl, rfl, rfl, rfl, rfl, rfl, rfl, rfl, rfl, rfl, rfl, rfl, rfl, rfl, rfl, rfl, rfl, rfl, rfl, rfl, rfl⟩

@[simp] theorem Part.advance_frame (p : Part) :
    p.advance.pins = p.pins ∧ p.advance.seen = p.seen ∧ p.advance.bus.busSel = p.bus.busSel
    ∧ p.advance.bus.byteOrd = p.bus.byteOrd ∧ p.advance.bus.sid = p.bus.sid ∧ p.advance.bus.cfgSel = p.bus.cfgSel
    ∧ p.advance.bus.winStart = p.bus.winStart ∧ p.advance.bus.winEnd = p.bus.winEnd
    ∧ p.advance.bus.readLatch = p.bus.readLatch ∧ p.advance.bus.writeHold = p.bus.writeHold
    ∧ p.advance.bus.readCapture = p.bus.readCapture ∧ p.advance.bus.holdLevel = p.bus.holdLevel
    ∧ p.advance.bus.parkLevel = p.bus.parkLevel ∧ p.advance.bus.sticky = p.bus.sticky ∧ p.advance.bus.mask = p.bus.mask
    ∧ p.advance.bus.serial = p.bus.serial ∧ p.advance.bus.dataOut = p.bus.dataOut ∧ p.advance.zeroing = p.zeroing
    ∧ p.advance.mem = p.mem ∧ p.advance.orders = p.orders ∧ p.advance.format = p.format ∧ p.advance.record = p.record
    ∧ p.advance.scan = p.scan ∧ p.advance.head = p.head ∧ p.advance.dir = p.dir ∧ p.advance.segs = p.segs
    ∧ p.advance.lastHeadLane = p.lastHeadLane ∧ p.advance.lanes = p.lanes ∧ p.advance.reclaim = p.reclaim
    ∧ p.advance.mount = p.mount ∧ p.advance.power = p.power ∧ p.advance.freeIndex = p.freeIndex := by
  refine ⟨rfl, rfl, rfl, rfl, rfl, rfl, rfl, rfl, rfl, rfl, rfl, rfl, rfl, rfl, rfl, rfl, rfl, rfl, rfl, rfl, rfl, rfl, rfl, rfl, rfl, rfl, rfl, rfl, rfl, rfl, rfl, rfl⟩

@[simp] theorem Part.reload_frame (p : Part) :
    p.reload.pins = p.pins ∧ p.reload.seen = p.seen ∧ p.reload.bus.busSel = p.bus.busSel
    ∧ p.reload.bus.byteOrd = p.bus.byteOrd ∧ p.reload.bus.sid = p.bus.sid ∧ p.reload.bus.cfgSel = p.bus.cfgSel
    ∧ p.reload.bus.pointer = p.bus.pointer ∧ p.reload.bus.winStart = p.bus.winStart ∧ p.reload.bus.winEnd = p.bus.winEnd
    ∧ p.reload.bus.writeHold = p.bus.writeHold ∧ p.reload.bus.readCapture = p.bus.readCapture
    ∧ p.reload.bus.holdLevel = p.bus.holdLevel ∧ p.reload.bus.parkLevel = p.bus.parkLevel
    ∧ p.reload.bus.sticky = p.bus.sticky ∧ p.reload.bus.mask = p.bus.mask ∧ p.reload.bus.serial = p.bus.serial
    ∧ p.reload.bus.dataOut = p.bus.dataOut ∧ p.reload.zeroing = p.zeroing ∧ p.reload.mem = p.mem
    ∧ p.reload.orders = p.orders ∧ p.reload.format = p.format ∧ p.reload.record = p.record ∧ p.reload.scan = p.scan
    ∧ p.reload.head = p.head ∧ p.reload.dir = p.dir ∧ p.reload.segs = p.segs ∧ p.reload.lastHeadLane = p.lastHeadLane
    ∧ p.reload.lanes = p.lanes ∧ p.reload.reclaim = p.reclaim ∧ p.reload.mount = p.mount ∧ p.reload.power = p.power
    ∧ p.reload.freeIndex = p.freeIndex := by
  refine ⟨rfl, rfl, rfl, rfl, rfl, rfl, rfl, rfl, rfl, rfl, rfl, rfl, rfl, rfl, rfl, rfl, rfl, rfl, rfl, rfl, rfl, rfl, rfl, rfl, rfl, rfl, rfl, rfl, rfl, rfl, rfl, rfl⟩

@[simp] theorem Part.wakeRoom_frame (p : Part) :
    p.wakeRoom.pins = p.pins ∧ p.wakeRoom.seen = p.seen ∧ p.wakeRoom.bus = p.bus ∧ p.wakeRoom.zeroing = p.zeroing
    ∧ p.wakeRoom.mem = p.mem ∧ p.wakeRoom.orders = p.orders ∧ p.wakeRoom.format = p.format ∧ p.wakeRoom.record = p.record
    ∧ p.wakeRoom.scan = p.scan ∧ p.wakeRoom.head.seqCounter = p.head.seqCounter
    ∧ p.wakeRoom.head.epochCounter = p.head.epochCounter ∧ p.wakeRoom.head.recordsInHead = p.head.recordsInHead
    ∧ p.wakeRoom.head.append = p.head.append ∧ p.wakeRoom.head.copyReq = p.head.copyReq
    ∧ p.wakeRoom.head.lastGranted = p.head.lastGranted ∧ p.wakeRoom.dir = p.dir ∧ p.wakeRoom.segs = p.segs
    ∧ p.wakeRoom.lastHeadLane = p.lastHeadLane ∧ p.wakeRoom.lanes = p.lanes ∧ p.wakeRoom.reclaim = p.reclaim
    ∧ p.wakeRoom.mount = p.mount ∧ p.wakeRoom.power = p.power ∧ p.wakeRoom.freeIndex = p.freeIndex := by
  refine ⟨rfl, rfl, rfl, rfl, rfl, rfl, rfl, rfl, rfl, rfl, rfl, rfl, rfl, rfl, rfl, rfl, rfl, rfl, rfl, rfl, rfl, rfl, rfl⟩

@[simp] theorem Part.setAppend_frame (p : Part) (a : Append) :
    (p.setAppend a).pins = p.pins ∧ (p.setAppend a).seen = p.seen ∧ (p.setAppend a).bus = p.bus
    ∧ (p.setAppend a).zeroing = p.zeroing ∧ (p.setAppend a).mem = p.mem ∧ (p.setAppend a).orders = p.orders
    ∧ (p.setAppend a).format = p.format ∧ (p.setAppend a).record = p.record ∧ (p.setAppend a).scan = p.scan
    ∧ (p.setAppend a).head.seqCounter = p.head.seqCounter ∧ (p.setAppend a).head.epochCounter = p.head.epochCounter
    ∧ (p.setAppend a).head.recordsInHead = p.head.recordsInHead ∧ (p.setAppend a).head.orderReq = p.head.orderReq
    ∧ (p.setAppend a).head.copyReq = p.head.copyReq ∧ (p.setAppend a).head.lastGranted = p.head.lastGranted
    ∧ (p.setAppend a).dir = p.dir ∧ (p.setAppend a).segs = p.segs ∧ (p.setAppend a).lastHeadLane = p.lastHeadLane
    ∧ (p.setAppend a).lanes = p.lanes ∧ (p.setAppend a).reclaim = p.reclaim ∧ (p.setAppend a).mount = p.mount
    ∧ (p.setAppend a).power = p.power ∧ (p.setAppend a).freeIndex = p.freeIndex := by
  refine ⟨rfl, rfl, rfl, rfl, rfl, rfl, rfl, rfl, rfl, rfl, rfl, rfl, rfl, rfl, rfl, rfl, rfl, rfl, rfl, rfl, rfl, rfl, rfl⟩

@[simp] theorem Part.setScan_frame (p : Part) (o : ScanOrder) :
    (p.setScan o).pins = p.pins ∧ (p.setScan o).seen = p.seen ∧ (p.setScan o).bus = p.bus
    ∧ (p.setScan o).zeroing = p.zeroing ∧ (p.setScan o).mem = p.mem ∧ (p.setScan o).orders = p.orders
    ∧ (p.setScan o).format = p.format ∧ (p.setScan o).record = p.record ∧ (p.setScan o).head = p.head
    ∧ (p.setScan o).dir = p.dir ∧ (p.setScan o).segs = p.segs ∧ (p.setScan o).lastHeadLane = p.lastHeadLane
    ∧ (p.setScan o).lanes = p.lanes ∧ (p.setScan o).reclaim = p.reclaim ∧ (p.setScan o).mount = p.mount
    ∧ (p.setScan o).power = p.power ∧ (p.setScan o).freeIndex = p.freeIndex := by
  refine ⟨rfl, rfl, rfl, rfl, rfl, rfl, rfl, rfl, rfl, rfl, rfl, rfl, rfl, rfl, rfl, rfl, rfl⟩

/-! ## What the updates write -/

@[simp] theorem Part.store_mem (p : Part) (a : Nat) (bytes : List Byte) : (p.store a bytes).mem = Mem.writeBytes p.mem a bytes :=
  rfl

@[simp] theorem Part.raise_sticky (p : Part) (n : Sticky) : (p.raise n).bus.sticky = p.bus.sticky ||| n.bit := rfl

@[simp] theorem Part.complete_doneList (p : Part) (n : SlotNo) (r : Result) :
    (p.complete n r).orders.doneList = p.orders.doneList ++ [n] := by
  simp [Part.complete]

@[simp] theorem Part.startOrder_postQueue (p : Part) (n : SlotNo) :
    (p.startOrder n).orders.postQueue = p.orders.postQueue.tail := by
  simp [Part.startOrder]

@[simp] theorem Part.postOutcome_lastPost (p : Part) (o : PostOutcome) : (p.postOutcome o).orders.lastPost = o := rfl

@[simp] theorem Part.drive_dataOut (p : Part) (out : Option Word) : (p.drive out).bus.dataOut = out := rfl

@[simp] theorem Part.setScan_scan (p : Part) (o : ScanOrder) : (p.setScan o).scan = some o := rfl

/-! ## Lanes -/

@[simp] theorem Quad.get_set_same {α : Type} (q : Quad α) (l : Lane) (x : α) : (q.set l x).get l = x := by
  fin_cases l <;> rfl

theorem Quad.get_set_other {α : Type} (q : Quad α) {l k : Lane} (x : α) (h : k ≠ l) : (q.set l x).get k = q.get k := by
  fin_cases l <;> fin_cases k <;> first | rfl | exact absurd rfl h

@[simp] theorem Part.lane_setLane_same (p : Part) (l : Lane) (r : LaneRec) : (p.setLane l r).lane l = r :=
  Quad.get_set_same _ _ _

theorem Part.lane_setLane_other (p : Part) {l k : Lane} (r : LaneRec) (h : k ≠ l) : (p.setLane l r).lane k = p.lane k :=
  Quad.get_set_other _ _ h

@[simp] theorem Waiting.get_set_same (w : Waiting) (rq : Requester) (r : Option Request) : (w.set rq r).get rq = r := by
  cases rq <;> rfl

theorem Waiting.get_set_other (w : Waiting) {rq other : Requester} (r : Option Request) (h : other ≠ rq) :
    (w.set rq r).get other = w.get other := by
  cases rq <;> cases other <;> first | rfl | exact absurd rfl h

/-! ## Giving a lane a request (R65, R73) -/

/-- With nothing in flight no result is to be discarded. -/
theorem LaneRec.discards_idle {r : LaneRec} (rq : Requester) (h : r.inFlight = none) : r.discards rq = false := by
  simp [LaneRec.discards, h]

/-- The mount engine, the head writer and the segment table discard no result. -/
theorem LaneRec.discards_never (r : LaneRec) {rq : Requester} (h : rq.mayDiscard = false) : r.discards rq = false := by
  simp [LaneRec.discards, h]

/-- Without a result to be discarded a request waits at once. -/
theorem LaneRec.request_waits {r : LaneRec} {rq : Requester} (q : Request) (h : r.discards rq = false) :
    r.request rq q = { r with waiting := r.waiting.set rq (some q) } := by simp [LaneRec.request, h]

/-- Behind a result to be discarded a request is held back. -/
theorem LaneRec.request_held {r : LaneRec} {rq : Requester} (q : Request) (h : r.discards rq = true) :
    r.request rq q = { r with heldBack := some q } := by simp [LaneRec.request, h]

/-- A request leaves the lane's state, count, operation in flight, last granted and link. -/
@[simp] theorem LaneRec.request_fields (r : LaneRec) (rq : Requester) (q : Request) :
    (r.request rq q).state = r.state ∧ (r.request rq q).count = r.count ∧ (r.request rq q).inFlight = r.inFlight
    ∧ (r.request rq q).lastGranted = r.lastGranted ∧ (r.request rq q).linkDriven = r.linkDriven := by
  unfold LaneRec.request
  split <;> exact ⟨rfl, rfl, rfl, rfl, rfl⟩

/-- Placing a request touches its own lane alone. -/
@[simp] theorem Part.lane_place_same (p : Part) (l : Lane) (rq : Requester) (q : Request) :
    (p.place l rq q).lane l = (p.lane l).request rq q := Quad.get_set_same _ _ _

theorem Part.lane_place_other (p : Part) {l k : Lane} (rq : Requester) (q : Request) (h : k ≠ l) :
    (p.place l rq q).lane k = p.lane k := Quad.get_set_other _ _ h

/-! ## Reads that are not served (R86, R92, R184, R186) -/

/-- A read that is not served leaves on the pins what the bus mode and the reason give, takes at most one free value and changes
nothing else. -/
theorem Part.unservedRead_eq (p : Part) :
    p.unservedRead = { p with
      bus.dataOut := p.unservedOut, freeIndex := if p.readsFree then p.freeIndex + 1 else p.freeIndex } := by
  simp only [Part.unservedRead, Part.drive]
  cases p.readsFree <;> rfl

/-- What a read that is not served shows is the same for every register. -/
theorem Part.pinRead_unserved {p : Part} (r : Reg) (a0 : Bool) (h : p.served = false) : p.pinRead r a0 = p.unservedOut := by
  simp [Part.pinRead, h]

/-! ## Slots -/

@[simp] theorem Part.slot_setSlot_same (p : Part) (n : SlotNo) (e : SlotEntry) : (p.setSlot n e).slot n = e := by
  unfold Part.setSlot Part.slot
  exact Vector.getElem_set_self n.isLt

theorem Part.slot_setSlot_other (p : Part) {n m : SlotNo} (e : SlotEntry) (h : m ≠ n) : (p.setSlot n e).slot m = p.slot m := by
  have hv : n.val ≠ m.val := fun hh => h (Fin.ext hh.symm)
  unfold Part.setSlot Part.slot
  exact Vector.getElem_set_ne n.isLt m.isLt hv

/-! ## Running a command -/

/-- A command that is a change of the part answers next with the queue unchanged. -/
theorem run_next (f : Part → Part) (s : State) : run f s = .next { s with part := f s.part } := rfl

theorem run_pending {f : Part → Part} {s t : State} (h : run f s = .next t) : t.pending = s.pending := by
  cases h; rfl

theorem act_of_not_live {f : Part → Part} {p : Part} (h : p.live = false) : p.act f = p := by
  simp [Part.act, Part.whenLive, h]

theorem act_of_live {f : Part → Part} {p : Part} (h : p.live = true) : p.act f = (f p).refreshErase := by
  simp [Part.act, Part.whenLive, h]

end Sys2Proof.Machine
end

