-- ==== Sys2Proof/Laws/EraseRequests.lean ====
section
/-! SUPPORT. The erase requests (R44): bringing them up to date changes nothing else, and what stands afterwards. -/

namespace Sys2Proof.Machine

/-- A lane's record but for its erase request. -/
def LaneRec.sameButErase (r x : LaneRec) : Prop := x = { r with waiting.erase := x.waiting.erase }

theorem LaneRec.sameButErase.refl (r : LaneRec) : r.sameButErase r := rfl

theorem LaneRec.sameButErase.trans {a b c : LaneRec} (h1 : a.sameButErase b) (h2 : b.sameButErase c) : a.sameButErase c := by
  unfold LaneRec.sameButErase at *
  rw [h2, h1]

/-- Bringing a lane's erase request up to date changes that request at most. -/
theorem Part.refreshLane_cases (p : Part) (l : Lane) :
    p.refreshLane l = p
      ∨ ∃ r, p.refreshLane l = p.setLane l { p.lane l with waiting := (p.lane l).waiting.set .erase r } := by
  unfold Part.refreshLane
  split
  · exact .inl rfl
  · split
    · split
      · exact .inl rfl
      · exact .inr ⟨none, rfl⟩
    · split
      · exact .inr ⟨_, rfl⟩
      · split
        · exact .inl rfl
        · exact .inr ⟨none, rfl⟩

@[simp] theorem Part.refreshLane_frame (p : Part) (l : Lane) :
    (p.refreshLane l).pins = p.pins ∧ (p.refreshLane l).seen = p.seen ∧ (p.refreshLane l).bus = p.bus
    ∧ (p.refreshLane l).zeroing = p.zeroing ∧ (p.refreshLane l).mem = p.mem ∧ (p.refreshLane l).orders = p.orders
    ∧ (p.refreshLane l).format = p.format ∧ (p.refreshLane l).record = p.record ∧ (p.refreshLane l).scan = p.scan
    ∧ (p.refreshLane l).head = p.head ∧ (p.refreshLane l).dir = p.dir ∧ (p.refreshLane l).segs = p.segs
    ∧ (p.refreshLane l).lastHeadLane = p.lastHeadLane ∧ (p.refreshLane l).reclaim = p.reclaim
    ∧ (p.refreshLane l).mount = p.mount ∧ (p.refreshLane l).power = p.power ∧ (p.refreshLane l).freeIndex = p.freeIndex := by
  rcases p.refreshLane_cases l with h | ⟨r, h⟩ <;> rw [h] <;> simp

@[simp] theorem Part.refreshErase_frame (p : Part) :
    p.refreshErase.pins = p.pins ∧ p.refreshErase.seen = p.seen ∧ p.refreshErase.bus = p.bus
    ∧ p.refreshErase.zeroing = p.zeroing ∧ p.refreshErase.mem = p.mem ∧ p.refreshErase.orders = p.orders
    ∧ p.refreshErase.format = p.format ∧ p.refreshErase.record = p.record ∧ p.refreshErase.scan = p.scan
    ∧ p.refreshErase.head = p.head ∧ p.refreshErase.dir = p.dir ∧ p.refreshErase.segs = p.segs
    ∧ p.refreshErase.lastHeadLane = p.lastHeadLane ∧ p.refreshErase.reclaim = p.reclaim ∧ p.refreshErase.mount = p.mount
    ∧ p.refreshErase.power = p.power ∧ p.refreshErase.freeIndex = p.freeIndex := by
  simp [Part.refreshErase]

theorem Part.refreshLane_lane (p : Part) (l k : Lane) : (p.lane k).sameButErase ((p.refreshLane l).lane k) := by
  rcases p.refreshLane_cases l with h | ⟨r, h⟩
  · rw [h]; exact .refl _
  · rw [h]
    by_cases hk : k = l
    · subst hk; simp [LaneRec.sameButErase, Waiting.set]
    · rw [Part.lane_setLane_other _ _ hk]; exact .refl _

/-- Bringing the erase requests up to date leaves every lane's record as it was but for its erase request. -/
theorem Part.refreshErase_lane (p : Part) (k : Lane) : (p.lane k).sameButErase (p.refreshErase.lane k) := by
  unfold Part.refreshErase
  exact (((Part.refreshLane_lane _ _ _).trans (Part.refreshLane_lane _ _ _)).trans (Part.refreshLane_lane _ _ _)).trans
    (Part.refreshLane_lane _ _ _)

@[simp] theorem Part.refreshErase_lane_fields (p : Part) (k : Lane) :
    (p.refreshErase.lane k).state = (p.lane k).state ∧ (p.refreshErase.lane k).count = (p.lane k).count
    ∧ (p.refreshErase.lane k).inFlight = (p.lane k).inFlight ∧ (p.refreshErase.lane k).heldBack = (p.lane k).heldBack
    ∧ (p.refreshErase.lane k).lastGranted = (p.lane k).lastGranted
    ∧ (p.refreshErase.lane k).linkDriven = (p.lane k).linkDriven
    ∧ (p.refreshErase.lane k).waiting.mount = (p.lane k).waiting.mount
    ∧ (p.refreshErase.lane k).waiting.record = (p.lane k).waiting.record
    ∧ (p.refreshErase.lane k).waiting.scan = (p.lane k).waiting.scan
    ∧ (p.refreshErase.lane k).waiting.reclaim = (p.lane k).waiting.reclaim
    ∧ (p.refreshErase.lane k).waiting.head = (p.lane k).waiting.head := by
  have h := p.refreshErase_lane k
  unfold LaneRec.sameButErase at h
  rw [h]; simp

theorem Part.refreshErase_waiting (p : Part) (k : Lane) {rq : Requester} (h : rq ≠ .erase) :
    (p.refreshErase.lane k).waiting.get rq = (p.lane k).waiting.get rq := by
  cases rq <;> simp_all [Waiting.get]

@[simp] theorem Part.refreshErase_lanePwr (p : Part) : p.refreshErase.lanePwr = p.lanePwr := by simp [Part.lanePwr]

@[simp] theorem Part.refreshErase_slot (p : Part) (n : SlotNo) : p.refreshErase.slot n = p.slot n := by simp [Part.slot]

@[simp] theorem Part.refreshErase_unitSlots (p : Part) : p.refreshErase.unitSlots = p.unitSlots := by simp [Part.unitSlots]

@[simp] theorem Part.refreshErase_present (p : Part) (l : Lane) : p.refreshErase.present l = p.present l := by
  simp [Part.present]

@[simp] theorem Part.refreshErase_live (p : Part) : p.refreshErase.live = p.live := by simp [Part.live]

@[simp] theorem Part.refreshErase_served (p : Part) : p.refreshErase.served = p.served := by simp [Part.served]

end Sys2Proof.Machine
end

