-- ==== Sys2Proof/Laws/Memory.lean ====
section
/-! SUPPORT. Exchange memory: reading after writing, and the canonical form that every write keeps. -/

namespace Sys2Proof.Machine

/-! ## The canonical form -/

theorem Mem.wfFrom_mono {lo lo' : Nat} (h : lo ≤ lo') : ∀ {m : Mem}, Mem.wfFrom lo' m = true → Mem.wfFrom lo m = true
  | [], _ => rfl
  | (k, v) :: rest, hm => by
    simp only [Mem.wfFrom, Bool.and_eq_true, decide_eq_true_eq] at hm ⊢
    exact ⟨⟨⟨by omega, hm.1.1.2⟩, hm.1.2⟩, hm.2⟩

/-- An address below the first listed reads 00hex. -/
theorem Mem.read_below {lo : Nat} : ∀ {m : Mem} {a : Nat}, Mem.wfFrom lo m = true → a < lo → Mem.read m a = 0
  | [], _, _, _ => rfl
  | (k, v) :: rest, a, hm, ha => by
    simp only [Mem.wfFrom, Bool.and_eq_true, decide_eq_true_eq] at hm
    have hk : k ≠ a := by omega
    simp only [Mem.read, hk, if_false]
    exact Mem.read_below hm.2 (by omega)

/-- A write inside the memory keeps the canonical form. -/
theorem Mem.wfFrom_write {a : Nat} (b : Byte) (ha : a < memSize) :
    ∀ {m : Mem} {lo : Nat}, lo ≤ a → Mem.wfFrom lo m = true → Mem.wfFrom lo (Mem.write m a b) = true
  | [], lo, hlo, _ => by
    by_cases hb : b = 0#8 <;> simp [Mem.write, hb, Mem.wfFrom, hlo, ha]
  | (k, v) :: rest, lo, hlo, hm => by
    simp only [Mem.wfFrom, Bool.and_eq_true, decide_eq_true_eq] at hm
    by_cases h1 : a < k
    · by_cases hb : b = 0
      · simp only [Mem.write, h1, hb, if_true, Mem.wfFrom, Bool.and_eq_true, decide_eq_true_eq]
        exact hm
      · simp only [Mem.write, h1, hb, if_true, if_false, Mem.wfFrom, Bool.and_eq_true, decide_eq_true_eq]
        exact ⟨⟨⟨hlo, ha⟩, by simpa using hb⟩, ⟨⟨⟨h1, hm.1.1.2⟩, hm.1.2⟩, hm.2⟩⟩
    · by_cases h2 : a = k
      · subst h2
        by_cases hb : b = 0
        · simp only [Mem.write, h1, hb, if_true, if_false]
          exact Mem.wfFrom_mono (by omega) hm.2
        · simp only [Mem.write, h1, hb, if_true, if_false, Mem.wfFrom, Bool.and_eq_true, decide_eq_true_eq]
          exact ⟨⟨⟨hlo, ha⟩, by simpa using hb⟩, hm.2⟩
      · simp only [Mem.write, h1, h2, if_false, Mem.wfFrom, Bool.and_eq_true, decide_eq_true_eq]
        exact ⟨hm.1, Mem.wfFrom_write b ha (by omega) hm.2⟩

theorem Mem.wf_write {m : Mem} {a : Nat} (b : Byte) (ha : a < memSize) (h : Mem.wf m = true) :
    Mem.wf (Mem.write m a b) = true := Mem.wfFrom_write b ha (Nat.zero_le _) h

/-! ## Reading after writing -/

theorem Mem.read_write_other {a c : Nat} (b : Byte) (hac : c ≠ a) : ∀ (m : Mem), Mem.read (Mem.write m a b) c = Mem.read m c
  | [] => by by_cases hb : b = 0#8 <;> simp [Mem.write, hb, Mem.read, Ne.symm hac]
  | (k, v) :: rest => by
    have ih := Mem.read_write_other b hac rest
    by_cases h1 : a < k
    · by_cases hb : b = 0#8 <;> simp [Mem.write, h1, hb, Mem.read, Ne.symm hac]
    · by_cases h2 : a = k
      · subst h2
        by_cases hb : b = 0#8 <;> simp [Mem.write, hb, Mem.read, Ne.symm hac]
      · simp [Mem.write, h1, h2, Mem.read, ih]

theorem Mem.read_write_same {a : Nat} (b : Byte) :
    ∀ {m : Mem} {lo : Nat}, Mem.wfFrom lo m = true → Mem.read (Mem.write m a b) a = b
  | [], _, _ => by by_cases hb : b = 0#8 <;> simp [Mem.write, hb, Mem.read]
  | (k, v) :: rest, lo, hm => by
    simp only [Mem.wfFrom, Bool.and_eq_true, decide_eq_true_eq] at hm
    by_cases h1 : a < k
    · by_cases hb : b = 0#8
      · have : k ≠ a := by omega
        simp [Mem.write, h1, hb, Mem.read, this, Mem.read_below hm.2 (show a < k + 1 by omega)]
      · simp [Mem.write, h1, hb, Mem.read]
    · by_cases h2 : a = k
      · subst h2
        by_cases hb : b = 0#8
        · simp [Mem.write, hb, Mem.read_below hm.2 (Nat.lt_succ_self a)]
        · simp [Mem.write, hb, Mem.read]
      · have : k ≠ a := fun h => h2 h.symm
        simp [Mem.write, h1, h2, Mem.read, this, Mem.read_write_same b hm.2]

/-! ## Several bytes as one access -/

theorem memAddr_lt (a : Nat) : memAddr a < memSize := Nat.mod_lt _ (by decide)

theorem memAddr_of_lt {a : Nat} (h : a < memSize) : memAddr a = a := Nat.mod_eq_of_lt h

theorem Mem.wf_writeBytes : ∀ (bytes : List Byte) {m : Mem} (a : Nat), Mem.wf m = true → Mem.wf (Mem.writeBytes m a bytes) = true
  | [], _, _, h => h
  | b :: rest, _, a, h => Mem.wf_writeBytes rest (a + 1) (Mem.wf_write b (memAddr_lt a) h)

/-- Outside the bytes stored, memory reads as before. -/
theorem Mem.read_writeBytes_other :
    ∀ (bytes : List Byte) (m : Mem) (a c : Nat), a + bytes.length ≤ memSize → (c < a ∨ a + bytes.length ≤ c) →
      Mem.read (Mem.writeBytes m a bytes) c = Mem.read m c
  | [], _, _, _, _, _ => rfl
  | b :: rest, m, a, c, hb, hc => by
    have hlen : (b :: rest).length = rest.length + 1 := rfl
    have hmem : memAddr a = a := memAddr_of_lt (by omega)
    simp only [Mem.writeBytes, hmem]
    rw [Mem.read_writeBytes_other rest _ (a + 1) c (by omega) (by omega), Mem.read_write_other b (by omega)]

/-- The bytes stored read back. -/
theorem Mem.read_writeBytes_same :
    ∀ (bytes : List Byte) (m : Mem) (a i : Nat), Mem.wf m = true → a + bytes.length ≤ memSize → (h : i < bytes.length) →
      Mem.read (Mem.writeBytes m a bytes) (a + i) = bytes[i]
  | b :: rest, m, a, i, hm, hb, hi => by
    have hlen : (b :: rest).length = rest.length + 1 := rfl
    have hmem : memAddr a = a := memAddr_of_lt (by omega)
    simp only [Mem.writeBytes, hmem]
    have hw := Mem.wf_write b (show a < memSize by omega) hm
    match i, hi with
    | 0, _ =>
      rw [Mem.read_writeBytes_other rest _ (a + 1) (a + 0) (by omega) (by omega)]
      exact Mem.read_write_same b hm
    | j + 1, hj =>
      have := Mem.read_writeBytes_same rest (Mem.write m a b) (a + 1) j hw (by omega) (by simpa using hj)
      simpa [Nat.add_assoc, Nat.add_comm 1 j] using this

/-- A store of several bytes keeps the canonical form. -/
theorem Part.wf_store {p : Part} (a : Nat) (bytes : List Byte) (h : Mem.wf p.mem = true) :
    Mem.wf (p.store a bytes).mem = true := Mem.wf_writeBytes bytes a h

/-! ## Little-endian fields -/

theorem leBytes_length : ∀ (n v : Nat), (leBytes n v).length = n
  | 0, _ => rfl
  | n + 1, v => by simp [leBytes, leBytes_length n (v / 256)]

theorem leNat_leBytes : ∀ (n v : Nat), leNat (leBytes n v) = v % 256 ^ n
  | 0, v => by simp [leBytes, leNat, Nat.mod_one]
  | n + 1, v => by
    have h := leNat_leBytes n (v / 256)
    have h8 : (BitVec.ofNat 8 v).toNat = v % 256 := by simp
    simp only [leBytes, leNat, h, h8, Nat.pow_succ]
    rw [Nat.mul_comm (256 ^ n) 256, Nat.mod_mul]

end Sys2Proof.Machine
end

