-- ==== Sys2Proof/Laws/Operations.lean ====
section
/-! SUPPORT. What the shared operations of the order block and the segment table do, said once: slots, canonical memory, the
DONE bit, and segment entries. -/

namespace Sys2Proof.Machine

/-! ## Slots -/

@[simp] theorem Part.slot_store (p : Part) (a : Nat) (bytes : List Byte) (m : SlotNo) : (p.store a bytes).slot m = p.slot m := rfl

@[simp] theorem Part.slot_raise (p : Part) (n : Sticky) (m : SlotNo) : (p.raise n).slot m = p.slot m := rfl

@[simp] theorem Part.slot_modSeg (p : Part) (a : SegAddr) (f : SegEntry → SegEntry) (m : SlotNo) :
    (p.modSeg a f).slot m = p.slot m := rfl

@[simp] theorem Part.slot_place (p : Part) (l : Lane) (rq : Requester) (r : Request) (m : SlotNo) :
    (p.place l rq r).slot m = p.slot m := rfl

theorem Part.slot_complete_eq (p : Part) (n m : SlotNo) (r : Result) :
    (p.complete n r).slot m = (((p.writeResult n r).writePhase n (phaseByte .done)).setSlot n ⟨true, .done⟩).slot m := rfl

/-- A completed slot is DONE. -/
@[simp] theorem Part.slot_complete_same (p : Part) (n : SlotNo) (r : Result) : (p.complete n r).slot n = ⟨true, .done⟩ := by
  rw [Part.slot_complete_eq, Part.slot_setSlot_same]

/-- A completion leaves every other slot's entry. -/
theorem Part.slot_complete_other (p : Part) {n m : SlotNo} (r : Result) (h : m ≠ n) : (p.complete n r).slot m = p.slot m := by
  rw [Part.slot_complete_eq, Part.slot_setSlot_other _ _ h]
  simp [Part.writePhase, Part.writeResult]

/-- A slot handed to a unit is RUNNING. -/
@[simp] theorem Part.slot_startOrder_same (p : Part) (n : SlotNo) : (p.startOrder n).slot n = ⟨true, .running⟩ :=
  Part.slot_setSlot_same _ n _

/-- Starting an order leaves every other slot's entry. -/
theorem Part.slot_startOrder_other (p : Part) {n m : SlotNo} (h : m ≠ n) : (p.startOrder n).slot m = p.slot m :=
  Part.slot_setSlot_other _ _ h

/-- An accepted slot is QUEUED. -/
@[simp] theorem Part.slot_acceptPost_same (p : Part) (n : SlotNo) : (p.acceptPost n).slot n = ⟨true, .queued⟩ :=
  Part.slot_setSlot_same _ n _

/-- Accepting a post leaves every other slot's entry. -/
theorem Part.slot_acceptPost_other (p : Part) {n m : SlotNo} (h : m ≠ n) : (p.acceptPost n).slot m = p.slot m :=
  Part.slot_setSlot_other _ _ h

@[simp] theorem Part.acceptPost_postQueue (p : Part) (n : SlotNo) :
    (p.acceptPost n).orders.postQueue = p.orders.postQueue ++ [n] := rfl

/-- The record unit's end: with no order it changes nothing; else the order's slot is completed and the unit is free. -/
theorem Part.finishRecord_cases (p : Part) (r : Result) :
    (p.record = none ∧ p.finishRecord r = p)
      ∨ ∃ o, p.record = some o ∧ p.finishRecord r = { p with record := none }.complete o.slot r := by
  unfold Part.finishRecord
  cases p.record with
  | none => exact .inl ⟨rfl, rfl⟩
  | some o => exact .inr ⟨o, rfl, rfl⟩

/-- A scan's end completes its slot and frees the unit. -/
theorem Part.endScan_scan (p : Part) (o : ScanOrder) (r : Result) (k : Long) : (p.endScan o r k).scan = none := by
  simp [Part.endScan]

/-! ## The dispatcher -/

/-- Everything a dispatch can do: nothing; a refusal of the head order; or the head order handed to its unit. -/
theorem Part.dispatch_cases (kinds : Byte → Bool) (free : Part → Bool) (take : SlotNo → OrderFields → Part → Part) (p : Part) :
    p.dispatch kinds free take = p
      ∨ ∃ n f, p.headOrder = some (n, f) ∧ kinds f.kind = true ∧ free p = true
          ∧ ((∃ why, dispatchCheck p.mounted f = some why
                ∧ p.dispatch kinds free take = (p.startOrder n).complete n (refusedResult why))
            ∨ (dispatchCheck p.mounted f = none ∧ p.dispatch kinds free take = take n f (p.startOrder n))) := by
  unfold Part.dispatch
  split
  · exact .inl rfl
  · next n f h =>
    split
    · next hk =>
      rw [Bool.and_eq_true] at hk
      refine .inr ⟨n, f, h, hk.1, hk.2, ?_⟩
      split
      · next why hw => exact .inl ⟨why, hw, rfl⟩
      · next hw => exact .inr ⟨hw, rfl⟩
    · exact .inl rfl

/-- The head order is the first of the post queue, in ACTIVE, with intake ended and no FORMAT in progress. -/
theorem Part.headOrder_some {p : Part} {n : SlotNo} {f : OrderFields} (h : p.headOrder = some (n, f)) :
    p.power.state = .active ∧ p.orders.intake = .ended ∧ p.format = none
      ∧ (∃ rest, p.orders.postQueue = n :: rest) ∧ f = p.readFields n := by
  unfold Part.headOrder at h
  split at h
  · next hc =>
    split at h
    · exact absurd h (by simp)
    · next m rest hq =>
      simp only [Option.some.injEq, Prod.mk.injEq] at h
      obtain ⟨rfl, rfl⟩ := h
      simp only [Bool.and_eq_true, Part.active, beq_iff_eq, Option.isNone_iff_eq_none] at hc
      exact ⟨hc.1.1.1, hc.1.1.2, hc.2, ⟨rest, hq⟩, rfl⟩
  · exact absurd h (by simp)

/-! ## Canonical memory -/

theorem Part.wf_writePhase {p : Part} (n : SlotNo) (b : Byte) (h : Mem.wf p.mem = true) :
    Mem.wf (p.writePhase n b).mem = true := Part.wf_store _ _ h

theorem Part.wf_writeResult {p : Part} (n : SlotNo) (r : Result) (h : Mem.wf p.mem = true) :
    Mem.wf (p.writeResult n r).mem = true := by
  unfold Part.writeResult
  exact Part.wf_store _ _ (Part.wf_store _ _ (Part.wf_store _ _ h))

theorem Part.wf_complete {p : Part} (n : SlotNo) (r : Result) (h : Mem.wf p.mem = true) :
    Mem.wf (p.complete n r).mem = true := by
  unfold Part.complete
  simp only [Part.setSlot_frame]
  exact Part.wf_writePhase n _ (Part.wf_writeResult n r h)

theorem Part.wf_startOrder {p : Part} (n : SlotNo) (h : Mem.wf p.mem = true) : Mem.wf (p.startOrder n).mem = true :=
  Part.wf_store _ _ h

theorem Part.wf_acceptPost {p : Part} (n : SlotNo) (h : Mem.wf p.mem = true) : Mem.wf (p.acceptPost n).mem = true :=
  Part.wf_store _ _ h

/-! ## The DONE bit -/

/-- No raise sets the DONE bit. -/
theorem Part.raise_done (p : Part) (n : Sticky) : (p.raise n).bus.sticky &&& 1 = p.bus.sticky &&& 1 := by
  have h : ∀ b : Byte, (b ||| n.bit) &&& 1 = b &&& 1 := by cases n <;> decide
  exact h _

/-! ## Segment entries -/

/-- A change of a segment's entry is what the segment table then answers for it. -/
theorem Part.seg_modSeg_same (p : Part) (a : SegAddr) (f : SegEntry → SegEntry) (h : a.seg < (p.segs.get a.lane).length) :
    (p.modSeg a f).seg a = f (p.seg a) := by
  simp [Part.seg, Part.modSeg, List.getD_eq_getElem?_getD, h]

/-- A change of one segment's entry leaves every other segment's. -/
theorem Part.seg_modSeg_other (p : Part) {a b : SegAddr} (f : SegEntry → SegEntry) (h : b ≠ a) :
    (p.modSeg a f).seg b = p.seg b := by
  unfold Part.seg Part.modSeg
  by_cases hl : b.lane = a.lane
  · have hs : a.seg ≠ b.seg := fun hs => h (by cases a; cases b; simp_all)
    rw [hl, Quad.get_set_same]
    simp [List.getD_eq_getElem?_getD, hs]
  · simp only [Quad.get_set_other _ _ hl]

/-- A change of an entry keeps every lane's number of segments. -/
theorem Part.modSeg_length (p : Part) (a : SegAddr) (f : SegEntry → SegEntry) (l : Lane) :
    ((p.modSeg a f).segs.get l).length = (p.segs.get l).length := by
  unfold Part.modSeg
  by_cases hl : l = a.lane
  · subst hl; simp
  · simp only [Quad.get_set_other _ _ hl]

/-! ## Ends of operations (R65, R73) -/

/-- With nothing held back, the end of an operation leaves the lane with nothing in flight and its queue as it was. -/
theorem LaneRec.landed_eq {r : LaneRec} (h : r.heldBack = none) : r.landed = { r with inFlight := none, heldBack := none } := by
  unfold LaneRec.landed
  rw [h]
  cases r.inFlight <;> rfl

/-- The end of an operation leaves nothing in flight and nothing held back, and the lane's state, count, last granted and link as
they were. -/
@[simp] theorem LaneRec.landed_fields (r : LaneRec) :
    r.landed.inFlight = none ∧ r.landed.heldBack = none ∧ r.landed.state = r.state ∧ r.landed.count = r.count
    ∧ r.landed.lastGranted = r.lastGranted ∧ r.landed.linkDriven = r.linkDriven := by
  unfold LaneRec.landed
  split
  · split <;> exact ⟨rfl, rfl, rfl, rfl, rfl, rfl⟩
  · exact ⟨rfl, rfl, rfl, rfl, rfl, rfl⟩

/-- The end of an operation touches its own lane alone. -/
@[simp] theorem Part.lane_landed_same (p : Part) (l : Lane) : (p.landed l).lane l = (p.lane l).landed := Quad.get_set_same _ _ _

theorem Part.lane_landed_other (p : Part) {l k : Lane} (h : k ≠ l) : (p.landed l).lane k = p.lane k := Quad.get_set_other _ _ h

end Sys2Proof.Machine
end

