-- ==== Sys2Proof/Laws/Reclaim.lean ====
section
/-! SUPPORT. The reclaim walk: how many walk ends one act can hold, and that the walk's bound is never what stops it (R155). -/

namespace Sys2Proof.Machine

/-! ## Entries and their addresses -/

theorem addrsFrom_length (l : Lane) (n : Nat) (es : List SegEntry) : (addrsFrom l n es).length = es.length := by
  induction es generalizing n with
  | nil => rfl
  | cons e rest ih => simp [addrsFrom, ih]

theorem addrsFrom_countP (l : Lane) (n : Nat) (es : List SegEntry) (f : SegEntry → Bool) :
    (addrsFrom l n es).countP (fun x => f x.2) = es.countP f := by
  induction es generalizing n with
  | nil => rfl
  | cons e rest ih => simp only [addrsFrom, List.countP_cons, ih]

/-- An entry listed with an address is the one the table answers for it. -/
theorem mem_addrsFrom {l : Lane} {n : Nat} {es : List SegEntry} {a : SegAddr} {e : SegEntry} (h : (a, e) ∈ addrsFrom l n es) :
    a.lane = l ∧ ∃ i, a.seg = n + i ∧ es[i]? = some e := by
  induction es generalizing n with
  | nil => simp [addrsFrom] at h
  | cons x rest ih =>
    simp only [addrsFrom, List.mem_cons, Prod.mk.injEq] at h
    rcases h with ⟨rfl, rfl⟩ | h
    · exact ⟨rfl, 0, rfl, rfl⟩
    · obtain ⟨h1, i, h2, h3⟩ := ih h
      exact ⟨h1, i + 1, by omega, by simpa using h3⟩

theorem Part.mem_entries {p : Part} {a : SegAddr} {e : SegEntry} (h : (a, e) ∈ p.entries) :
    (p.segs.get a.lane)[a.seg]? = some e := by
  simp only [Part.entries, List.mem_append] at h
  rcases h with ((h | h) | h) | h <;>
    (obtain ⟨h1, i, h2, h3⟩ := mem_addrsFrom h
     rw [h1, h2, Nat.zero_add]; exact h3)

/-- How many segments of the table have a property. -/
theorem Part.countP_entries (p : Part) (f : SegEntry → Bool) :
    p.entries.countP (fun x => f x.2) = p.segs.l0.countP f + p.segs.l1.countP f + p.segs.l2.countP f + p.segs.l3.countP f := by
  simp only [Part.entries, List.countP_append, addrsFrom_countP]

theorem Part.chain_length (p : Part) : p.chain.length = p.entries.countP fun x => x.2.state.inChain := by
  simp [Part.chain, List.countP_eq_length_filter]

theorem countP_modify {es : List SegEntry} {i : Nat} {e : SegEntry} (f : SegEntry → Bool) (g : SegEntry → SegEntry)
    (h : es[i]? = some e) :
    (es.modify i g).countP f + (if f e then 1 else 0) = es.countP f + (if f (g e) then 1 else 0) := by
  induction es generalizing i with
  | nil => simp at h
  | cons x rest ih =>
    cases i with
    | zero =>
      simp only [List.getElem?_cons_zero, Option.some.injEq] at h
      subst h
      simp only [List.modify_zero_cons, List.countP_cons]; omega
    | succ i =>
      simp only [List.getElem?_cons_succ] at h
      simp only [List.modify_succ_cons, List.countP_cons]
      have := ih h; omega

/-- Changing one segment's entry changes a count of the table by that entry alone. -/
theorem Part.countP_modSeg {p : Part} {a : SegAddr} {e : SegEntry} (f : SegEntry → Bool) (g : SegEntry → SegEntry)
    (h : (p.segs.get a.lane)[a.seg]? = some e) :
    (p.modSeg a g).entries.countP (fun x => f x.2) + (if f e then 1 else 0)
      = p.entries.countP (fun x => f x.2) + (if f (g e) then 1 else 0) := by
  obtain ⟨l, i⟩ := a
  rw [Part.countP_entries, Part.countP_entries]
  have := countP_modify f g h
  fin_cases l <;> simp only [Part.modSeg, Quad.set, Quad.get] at * <;> omega

theorem Part.length_entries (p : Part) :
    p.entries.length = p.segs.l0.length + p.segs.l1.length + p.segs.l2.length + p.segs.l3.length := by
  simp only [Part.entries, List.length_append, addrsFrom_length]

theorem Part.length_entries_modSeg (p : Part) (a : SegAddr) (g : SegEntry → SegEntry) :
    (p.modSeg a g).entries.length = p.entries.length := by
  obtain ⟨l, i⟩ := a
  rw [Part.length_entries, Part.length_entries]
  fin_cases l <;> simp [Part.modSeg, Quad.set, Quad.get]

theorem lowestEpoch_mem {xs : List (SegAddr × SegEntry)} {x : SegAddr × SegEntry} (h : lowestEpoch xs = some x) : x ∈ xs := by
  induction xs with
  | nil => simp [lowestEpoch] at h
  | cons y rest ih =>
    unfold lowestEpoch at h
    split at h
    · simp_all
    · next z hz =>
      split at h
      · exact List.mem_cons_of_mem _ (ih (by rw [hz]; exact h))
      · simp_all

/-! ## The walk's bound -/

/-- An evaluation that takes a tail takes a CLOSED segment of the table. -/
theorem Part.decideChain_take {p : Part} {a : SegAddr} (h : p.decideChain = .take a) :
    ∃ e, (p.segs.get a.lane)[a.seg]? = some e ∧ e.state = .closed := by
  unfold Part.decideChain at h
  split at h
  · exact absurd h (by simp)
  · split at h
    · exact absurd h (by simp)
    · split at h
      · exact absurd h (by simp)
      · next b e hb =>
        split at h
        · exact absurd h (by simp)
        · split at h
          · next hc =>
            cases h
            have := lowestEpoch_mem hb
            rw [Part.chain, List.mem_filter] at this
            exact ⟨e, Part.mem_entries this.1, hc⟩
          · exact absurd h (by simp)

theorem Part.settleDecision_some {p q : Part} {d : ChainDecision} {a : SegAddr} (h : p.settleDecision d = (q, some a)) :
    q = p ∧ d = .take a := by
  cases d <;> simp [Part.settleDecision] at h
  exact ⟨h.1.symm, by rw [h.2]⟩

/-- Going on after a walk end takes a CLOSED segment, the segment table as the walk end left it. -/
theorem Part.afterWalk_some {p q : Part} {a : SegAddr} (h : p.afterWalk = (q, some a)) :
    q.segs = p.segs ∧ ∃ e, (p.segs.get a.lane)[a.seg]? = some e ∧ e.state = .closed := by
  unfold Part.afterWalk at h
  split at h
  · split at h
    · obtain ⟨rfl, hd⟩ := Part.settleDecision_some h
      exact ⟨rfl, Part.decideChain_take hd⟩
    · simp at h
  · have hs : (p.toReclaim .idle).segs = p.segs := by
      unfold Part.toReclaim; split <;> rfl
    simp only at h
    split at h
    · split at h
      · obtain ⟨rfl, hd⟩ := Part.settleDecision_some h
        have := Part.decideChain_take hd
        rw [hs] at this
        exact ⟨hs, this⟩
      · simp at h
    · simp at h

/-- The part after a walk end that goes on to another tail has as many segments in the chain as before the other was taken, the ended
tail no longer among them. -/
theorem Part.chain_next {p q : Part} {t a : SegAddr} (h : (p.endWalk t).afterWalk = (q, some a)) :
    (q.takeTail a .trigger).reclaim.tail = some a
      ∧ (∃ e, ((q.takeTail a .trigger).segs.get a.lane)[a.seg]? = some e ∧ e.state.inChain = true)
      ∧ (q.takeTail a .trigger).chain.length = (p.endWalk t).chain.length
      ∧ (q.takeTail a .trigger).entries.length = p.entries.length := by
  obtain ⟨hs, e, he, hc⟩ := Part.afterWalk_some h
  have hq : (q.segs.get a.lane)[a.seg]? = some e := by rw [hs]; exact he
  have hent : q.entries = (p.endWalk t).entries := by unfold Part.entries; rw [hs]
  have ht : (q.takeTail a .trigger).entries = (q.modSeg a (SegEntry.to .reclaiming)).entries := rfl
  refine ⟨rfl, ⟨SegEntry.to .reclaiming e, ?_, rfl⟩, ?_, ?_⟩
  · show ((q.modSeg a (SegEntry.to .reclaiming)).segs.get a.lane)[a.seg]? = _
    simp [Part.modSeg, hq]
  · rw [Part.chain_length, Part.chain_length, ht, ← hent]
    have := Part.countP_modSeg (fun e => e.state.inChain) (SegEntry.to .reclaiming) hq
    have h1 : e.state.inChain = true := by rw [hc]; rfl
    have h2 : (SegEntry.to .reclaiming e).state.inChain = true := rfl
    simp only [h1, h2, if_true] at this
    omega
  · rw [ht, Part.length_entries_modSeg, hent]
    exact Part.length_entries_modSeg p t _

/-- Ending the walk of a tail that is in the chain takes it out of the chain. -/
theorem Part.chain_endWalk {p : Part} {t : SegAddr} {e : SegEntry} (h : (p.segs.get t.lane)[t.seg]? = some e)
    (hc : e.state.inChain = true) : (p.endWalk t).chain.length + 1 = p.chain.length := by
  rw [Part.chain_length, Part.chain_length]
  have := Part.countP_modSeg (fun e => e.state.inChain) (fun e => { e with state := .eraseWait, claimed := 0 }) h
  have h2 : SegState.eraseWait.inChain = false := rfl
  simp only [hc, h2, if_true] at this
  exact this

/-- A bound of the chain's length is enough: a larger one changes nothing. -/
theorem Part.walkFrom_enough (n : Nat) (p : Part) (t : SegAddr) (e : SegEntry) (ht : p.reclaim.tail = some t)
    (he : (p.segs.get t.lane)[t.seg]? = some e) (hc : e.state.inChain = true) (hn : p.chain.length ≤ n) :
    p.walkFrom (n + 1) = p.walkFrom n := by
  induction n generalizing p t e with
  | zero =>
    have := Part.chain_endWalk he hc
    omega
  | succ n ih =>
    rw [Part.walkFrom, Part.walkFrom]
    simp only [ht]
    split
    · rfl
    · split
      · rfl
      · next q a hq =>
        obtain ⟨h1, ⟨e', h2, h3⟩, h4, _⟩ := Part.chain_next hq
        have := Part.chain_endWalk he hc
        exact ih _ a e' h1 h2 h3 (by omega)

theorem Part.chain_le_entries (p : Part) : p.chain.length ≤ p.entries.length := by
  unfold Part.chain; exact List.length_filter_le _ _

/-- The walk below the tail's good end asks for the line at its position (R152). -/
theorem Part.walk_below {p : Part} {t : SegAddr} (ht : p.reclaim.tail = some t) (h : p.reclaim.pos < (p.seg t).goodEnd) :
    p.walk = p.readTail t p.reclaim.pos := by
  simp [Part.walk, Part.walkBound, Part.walkFrom, ht, h]

/-- The walk at the tail's good end ends it and goes on as R155 gives, its bound never being what stops it. -/
theorem Part.walk_at {p : Part} {t : SegAddr} (ht : p.reclaim.tail = some t) (h : (p.seg t).goodEnd ≤ p.reclaim.pos) :
    p.walk = match (p.endWalk t).afterWalk with
      | (q, none) => q
      | (q, some a) => (q.takeTail a .trigger).walk := by
  rw [Part.walk, Part.walkBound, Part.walkFrom]
  simp only [ht, if_neg (Nat.not_lt.2 h)]
  rcases hq : (p.endWalk t).afterWalk with ⟨q, _ | a⟩
  · rfl
  · obtain ⟨h1, ⟨e, h2, h3⟩, _, h5⟩ := Part.chain_next hq
    simp only [Part.walk, Part.walkBound, ← h5]
    exact (Part.walkFrom_enough _ _ a e h1 h2 h3 (Part.chain_le_entries _)).symm

end Sys2Proof.Machine
end

