-- ==== Sys2Proof/Tests/Slice0.lean ====
section
/-! SUPPORT. Tests: one-step checks on small states, the refusal of an ill-formed command, and, for each statement with
hypotheses, a state and operands that meet them (`test_witness_…`, named after the statement). -/

namespace Sys2Proof.Tests

open Sys2Proof.Machine

/-! ## Small states -/

/-- The state after a command; the state itself where the command has no next state. -/
def after (c : Instr) (s : State) : State :=
  match exec c s with
  | .next t => t
  | .fault _ => s
  | .refused _ => s

/-- Serving on the 16-bit bus, mount not begun. -/
def serving : State := { State.reset with part.zeroing := false }

/-- Serving on the 8-bit bus. -/
def serving8 : State := { serving with part.bus.busSel := 1 }

/-- Serving on the serial link, at this place in a transaction. -/
def serial (x : Serial) : State := { serving with part.bus.busSel := 2, part.bus.serial := x }

/-- A segment table entry without readers and not retired. -/
def seg (st : SegState) (epoch : Long) (used claimed goodEnd : Nat) : SegEntry := ⟨st, epoch, used, claimed, goodEnd, false, 0, false⟩

/-- A PRESENT lane with nothing to do. -/
def idleLane : LaneRec := ⟨.present, 16, none, none, .empty, .erase, false⟩

/-- Mounted with lane 0 PRESENT: a head with room, an older closed segment, three FREE segments, and one LIVE key. -/
def mounted : State :=
  { serving with
    part.mount := { Mount.reset with state := .mounted, step := .ended, outcome := 1 },
    part.lanes.l0 := idleLane,
    part.segs.l0 := [seg .head 8 4 1 5, seg .closed 7 126 9 127, SegEntry.cleared .free, SegEntry.cleared .free,
      SegEntry.cleared .free],
    part.dir := [⟨10, 5, false, ⟨⟨0, 0⟩, 4⟩, 20, 1⟩], part.head.seqCounter := 9, part.head.epochCounter := 9 }

/-- Slot bytes 0 to 51 of an order with step 1, mode ANY and pattern length 1. -/
def slotBytes (kind options : Nat) (key keyHi : Nat) (offset length : Nat) : List Byte :=
  [0] ++ leBytes 1 kind ++ leBytes 1 options ++ [0, 0, 0, 1, 5] ++ leBytes 4 key ++ leBytes 4 keyHi ++ leBytes 2 offset
    ++ leBytes 2 length ++ List.replicate 14 0 ++ [1, 0] ++ List.replicate 16 0

/-- An order in slot 0 at the head of the post queue. -/
def posted (s : State) (kind options : Nat) (key keyHi : Nat) (offset length : Nat) : State :=
  { s with
    part.mem := Mem.writeBytes s.part.mem 0x0100 (slotBytes kind options key keyHi offset length),
    part.orders.postQueue := [0], part.orders.slots := s.part.orders.slots.set 0 ⟨true, .queued⟩ }

/-- The fields of the order in slot 0. -/
def fields0 (s : State) : OrderFields := s.part.readFields 0

/-- The hypotheses of the dispatch statements: the order in slot 0 would be dispatched now and passes its checks. -/
def Dispatchable (s : State) (kind : Byte) : Prop :=
  s.part.live = true ∧ s.part.headOrder = some (0, fields0 s) ∧ dispatchCheck s.part.mounted (fields0 s) = none
    ∧ (fields0 s).kind = kind

/-- The part with lane 0 in flight. -/
def flying (s : State) (rq : Requester) (op : StoreOp) : State :=
  { s with part.lanes.l0.inFlight := some ⟨rq, op, op.limitMs, false⟩ }

/-- Held: HOLD with the HOLD level 1. -/
def held : State := { mounted with part.power.state := .hold, part.bus.holdLevel := true }

/-- Parked. -/
def parked : State := { mounted with part.power.state := .park, part.bus.parkLevel := true }

/-! ## Well-formedness -/

theorem test_wf_line : Instr.wf (.readLineEnd 0 (List.replicate 256 0)) = true := by decide +kernel
theorem test_illFormed_line : Instr.wf (.readLineEnd 0 []) = false := by decide +kernel
theorem test_illFormed_line_refused : exec (.readLineEnd 0 []) serving = .refused (.illFormed "READ_LINE_END") := rfl
theorem test_noTableWords : decodeTableWord 16 0 = none := by decide +kernel

/-! ## Checks and layouts -/

theorem test_crc16 : crc16 [0x31, 0x32, 0x33, 0x34, 0x35, 0x36, 0x37, 0x38, 0x39] = 0x29B1 := by decide +kernel
theorem test_crc32 : crc32 [0x31, 0x32, 0x33, 0x34, 0x35, 0x36, 0x37, 0x38, 0x39] = 0xCBF43926 := by decide +kernel
theorem test_lineCount : lineCount 236 = 1 ∧ lineCount 237 = 2 ∧ lineCount 4076 = 16 := by decide +kernel
theorem test_segmentHeader : judgeHeader ⟨1, 5⟩ (segmentHeader 42 ⟨1, 5⟩) = .valid 42 := by decide +kernel
theorem test_trailer : judgeTrailer 42 (trailer 42 20 3) = some (20, 3) := by decide +kernel

/-! ## The bus port (section 5.8) -/

theorem test_register_write :
    (after (.registerWrite .winStart 0x8240) serving).part.bus.winStart = 0x0240 := by decide +kernel
theorem test_data_read_advances : (after .dataRead { serving with part.bus.pointer := 0x0240 }).part.bus.pointer = 0x0242 := by
  decide +kernel
theorem test_data_read_wraps :
    (after .dataRead { serving with part.bus.pointer := 0x0263, part.bus.winStart := 0x0240, part.bus.winEnd := 0x0262 }).part.bus.pointer
      = 0x0241 := by decide +kernel
theorem test_data_write_stores :
    (after (.dataWrite 0x1234) { serving with part.bus.pointer := 0x0241 }).part.mem = [(0x240, 0x34), (0x241, 0x12)] := by
  decide +kernel
theorem test_low_byte_write : (after (.lowByteWrite .post 5) serving8).part.bus.writeHold = 5 := by decide +kernel
theorem test_post_high_byte :
    (after (.post 0) { serving8 with part.bus.writeHold := 3 }).part.orders.postQueue = [3] := by decide +kernel
theorem test_start_byte : (after (.startByte 0xCB) (serial .awaitStart)).part.bus.serial = .framed .take true := by decide +kernel
theorem test_start_byte_other_identity : (after (.startByte 0xDB) (serial .awaitStart)).part.bus.serial = .ignoring := by
  decide +kernel
theorem test_start_byte_with_the_clock_stopped :
    let bit := fun (x : Serial) => (after (.startByte 0xCB) { serial x with part.power.clockRunning := false }).part.bus.serial
    bit .awaitStart = .ignoring ∧ bit (.framed .take true) = .framed .take true := by decide +kernel
theorem test_transaction_start : (after .transactionStart (serial .idle)).part.bus.serial = .awaitStart := by decide +kernel
theorem test_transaction_end : (after .transactionEnd (serial .ignoring)).part.bus.serial = .idle := by decide +kernel
theorem test_low_byte_read : (after (.lowByteRead .winEnd) serving8).part.bus.readCapture = 0x7F := by decide +kernel
theorem test_zeroing_end : (after .zeroingEnd State.reset).part.served = true := by decide +kernel

/-! ## Orders (sections 6.2 to 6.8) -/

theorem test_post_badSlot : (after (.post 0x0105) serving).part.orders.lastPost = .badSlot := by decide +kernel
theorem test_post_accepted : (after (.post 31) serving).part.orders.postQueue = [31] := by decide +kernel
theorem test_take :
    (after .take { serving with part.orders.doneList := [8, 9] }).part.bus.dataOut = some 8 := by decide +kernel
theorem test_notice_write :
    (after (.noticeWrite 0x2002) { serving with part.bus.sticky := 0x22 }).part.bus.sticky = 0x20 := by decide +kernel
theorem test_put_requests :
    ((after .put (posted mounted 1 0 77 0 0x0900 100)).part.head.orderReq.map (·.lines)) = some 1 := by decide +kernel
theorem test_put_badKey : (after .put (posted mounted 1 0 0 0 0x0900 100)).slotByte 0 4 = 2 := by decide +kernel
theorem test_get_reads :
    (after .get (posted mounted 2 0 10 0 0x0900 100)).part.lanes.l0.waiting.record = some ⟨.readLine 0 4, false⟩ := by
  decide +kernel
theorem test_drop_notFound : (after .drop (posted mounted 3 0 11 0 0 0)).slotByte 0 4 = 16 := by decide +kernel
theorem test_scan_any_hit : (after .scan (posted mounted 4 0 1 99 0x0900 16)).byte 0x0900 = 10 := by decide +kernel
theorem test_reclaim_attaches :
    (after .reclaim (posted mounted 5 0 0 0 0 0)).part.reclaim.attached = some ⟨0, ⟨0, 1⟩, none⟩ := by decide +kernel
theorem test_format_suspends : (after .format (posted mounted 6 0 0 0 0 0)).part.reclaim.suspended = true := by decide +kernel
theorem test_survey_free : (after .survey (posted mounted 7 0 0 0 0x0A00 64)).byte 0x0A0E = 3 := by decide +kernel
theorem test_badKind : (after .badKind (posted mounted 9 0 0 0 0 0)).slotByte 0 3 = 4 := by decide +kernel

/-- Ends group 1 of the tests: Lean settles the proofs above a type before it goes on, and each unsettled one holds a
thread. -/
inductive Group1

/-! ## Power, clear and clock (sections 11.1 to 11.4) -/

theorem test_hold : (after (.hold 1) mounted).part.power.state = .hold := by decide +kernel
theorem test_park : (after (.park 2) mounted).part.power.state = .park := by decide +kernel
theorem test_clear : (after (.clear 4) mounted).part.power.clearPending = true := by decide +kernel
theorem test_cut_without_scan : (after (.cut 8) mounted).part.scan = none := by decide +kernel
theorem test_pwarn : (after .pwarnAssert mounted).part.power.state = .brace := by decide +kernel
theorem test_winh : (after .winhAssert mounted).part.seen.winh = true := by decide +kernel
theorem test_clock_stop : (after .clockStop parked).part.power.state = .stopped := by decide +kernel
theorem test_clear_takes_effect :
    (after .clearTakesEffect { held with part.power.clearPending := true, part.bus.holdLevel := false }).part.power.state = .active := by
  decide +kernel
theorem test_reset_assert : (after .resetAssert mounted).part.lanePwr = true := by decide +kernel
theorem test_reset_release : (after (.resetRelease ⟨1, false, false, 3⟩) (after .resetAssert mounted)).part.orders.intake = .low := by
  decide +kernel

/-! ## Lanes, the head writer and the walk (sections 4.7, 7.9, 9.6) -/

theorem test_store_good_settled :
    (after .storeGoodSettled { serving with part.mount.settle := true }).part.lanes.l3.waiting.mount = some ⟨.identify, false⟩ := by
  decide +kernel
theorem test_lane_grant :
    ((after (.laneGrant 0) { mounted with part.lanes.l0.waiting.record := some ⟨.readLine 0 4, false⟩ }).part.lanes.l0.inFlight.map
      (·.limitMs)) = some 1 := by decide +kernel
theorem test_identify_end :
    (after (.identifyEnd 2 16 0) { serving with
        part.mount.state := .mounting, part.mount.step := .identify,
        part.lanes.l2.inFlight := some ⟨.mount, .identify, 2, false⟩ }).part.segs.l2.length = 16 := by decide +kernel
/-- Lane 0, its first segment judged a chain member, is lost before lane 3's IDENTIFY ends; lanes 1 and 2 are ABSENT. -/
def lostEarly (judged : SegState) : State :=
  { serving with
    part.mount.state := .mounting, part.mount.step := .identify,
    part.mount.lanes := ⟨⟨true, 16, .line0⟩, ⟨true, 0, .line0⟩, ⟨true, 0, .line0⟩, ⟨false, 0, .line0⟩⟩,
    part.lanes.l0 := { idleLane with state := .offline }, part.lanes.l1.state := .absent, part.lanes.l2.state := .absent,
    part.lanes.l3.inFlight := some ⟨.mount, .identify, 2, false⟩, part.segs.l0 := [seg judged 8 126 0 1] }

theorem test_mount_goes_on_without_a_readable_lane :
    (after (.identifyEnd 3 0 0) (lostEarly .closed)).part.mount.outcome = 2
      ∧ (after (.identifyEnd 3 0 0) (lostEarly .unswept)).part.mount.outcome = 3 := by decide +kernel

theorem test_erase_pass :
    ((after (.eraseSegmentEnd 0 0) (flying mounted .erase (.eraseSegment 1))).part.seg ⟨0, 1⟩).state = .free := by decide +kernel
theorem test_erase_fail :
    ((after (.eraseSegmentEnd 0 1) (flying mounted .erase (.eraseSegment 1))).part.seg ⟨0, 1⟩).state = .bad := by decide +kernel
theorem test_time_limit : (after (.timeLimitExpiry 0) (flying mounted .record (.readLine 0 4))).part.lanes.l0.state = .offline := by
  decide +kernel

/-- A tombstone's request, waiting at the head writer. -/
def tombstoneReq : OrderReq := ⟨true, 10, 0, 0, 1, none, false⟩

/-- Mounted with a DROP waiting for its append. -/
def dropping : State :=
  { mounted with part.record := some ⟨0, fields0 mounted, .waiting⟩, part.head.orderReq := some tombstoneReq }

/-- The DROP's append programming its only line. -/
def programming : State :=
  flying { dropping with
    part.head.orderReq := none,
    part.head.append := some { Append.fresh (.order tombstoneReq) 9 with step := .programming ⟨0, 0⟩ 5 } }
    .head (.programLine 0 5 [])

theorem test_order_grant : (after .orderAppendGrant dropping).part.head.seqCounter = 10 := by decide +kernel
theorem test_drop_completes : (after (.programLineEnd 0 0) programming).part.dir = [⟨10, 9, true, ⟨⟨0, 0⟩, 5⟩, 0, 1⟩] := by
  decide +kernel
theorem test_program_failure_closes :
    (after (.programLineEnd 0 1) programming).part.head.append.map (·.step) = some (.closing ⟨0, 0⟩ .firstFailure) := by
  decide +kernel

/-- A one-line DATA record of key 10, sequence 5 and length 20, as programmed under this epoch. -/
def recordLine (epoch : Long) : List Byte :=
  let payload : List Byte := List.replicate 20 7
  orderLine (recordHeader false false 20 10 5 epoch) payload 20 0 (crc32Feed crc32Start payload)

/-- The walk of segment 0/1 at line 4, where the key's record lies, its line in flight. -/
def walking : State :=
  flying { mounted with
    part.segs.l0 := [seg .head 8 4 1 5, { seg .reclaiming 7 126 9 127 with trailered := true }],
    part.dir := [⟨10, 5, false, ⟨⟨0, 1⟩, 4⟩, 20, 1⟩],
    part.reclaim := { Reclaim.reset with state := .copying, tail := some ⟨0, 1⟩, pos := 4 } }
    .reclaim (.readLine 1 4)

theorem test_walk_submits_copy : ((after (.readLineEnd 0 (recordLine 7)) walking).part.head.copyReq.map (·.key)) = some 10 := by
  decide +kernel
theorem test_walk_halts : (after (.readLineEnd 0 (List.replicate 256 0xFF)) walking).part.reclaim.state = .halted := by
  decide +kernel

/-- The last line of a two-line GET in flight. -/
def getting : State :=
  flying { mounted with part.record := some ⟨0, fields0 (posted mounted 2 0 10 0 0x0900 300),
      .reading ⟨⟨10, 5, false, ⟨⟨0, 0⟩, 3⟩, 300, 2⟩, 1, 240, PayloadRun.start, ⟨0, 0⟩⟩⟩ }
    .record (.readLine 0 4)

/-- The first line of a GET of a record of this many lines in flight. -/
def firstGet (lines : Nat) : State :=
  flying { mounted with part.record := some ⟨0, fields0 (posted mounted 2 0 10 0 0x0900 300),
      .reading ⟨⟨10, 5, false, ⟨⟨0, 0⟩, 4⟩, 20, lines⟩, 0, 0, PayloadRun.start, ⟨0, 0⟩⟩⟩ }
    .record (.readLine 0 4)

/-- A SCAN in slot 3 with no entry in hand, its cursor at 1. -/
def scanOrder : ScanOrder := ⟨3, fields0 (posted mounted 4 0 1 99 0x0900 16), 1, 0, 0, 0, 0, none, false⟩

/-- Mounted with a SCAN held. -/
def scanning (o : ScanOrder) : State := { mounted with part.scan := some o }

/-- The entry of key 10, in hand. -/
def hand : ScanHand := ⟨⟨10, 5, false, ⟨⟨0, 0⟩, 4⟩, 20, 1⟩, 0, false, 0, PayloadRun.start, .eq, ⟨0, 0⟩⟩

/-- The last line of the entry a SCAN has in hand, in flight, its header judged. -/
def scanReading : State :=
  flying (scanning { scanOrder with inHand := some { hand with headerJudged := true, readSequence := 5 } }) .scan (.readLine 0 4)

/-- An append opening segment 0/2, its header in flight; or closing the head, its trailer in flight. -/
def turning (step : AppendStep) : State :=
  flying { dropping with
    part.head.orderReq := none, part.head.append := some { Append.fresh (.order tombstoneReq) 9 with step := step } }
    .head (.programLine 0 0 [])

/-- The walk's copy waiting at the head writer. -/
def copying : State := after (.readLineEnd 0 (recordLine 7)) walking

/-- Identifying: lane 0's IDENTIFY in flight, the others not ended. -/
def identifying : State :=
  { serving with
    part.mount.state := .mounting, part.mount.step := .identify, part.lanes.l0.inFlight := some ⟨.mount, .identify, 2, false⟩ }

/-- The header step on lane 0, line 0 of segment 3 in flight. -/
def heading : State :=
  flying { mounted with
    part.mount.state := .mounting, part.mount.step := .headers, part.mount.lanes.l0 := ⟨true, 3, .line0⟩ } .mount (.readLine 3 0)

/-- STOPPED. -/
def stopped : State := after .clockStop parked

/-- A cut SCAN's READ LINE is in flight, its result to be discarded. -/
def discarding : State := { mounted with part.lanes.l0.inFlight := some ⟨.record, .readLine 0 3, 1, true⟩ }

theorem test_request_waits_for_a_discarded_result :
    let s := after .get { posted mounted 2 0 10 0 0x0900 100 with part.lanes := discarding.part.lanes }
    let t := after (.readLineEnd 0 (List.replicate 256 0)) s
    s.part.lanes.l0.waiting.record = none ∧ s.part.lanes.l0.heldBack = some ⟨.readLine 0 4, false⟩
      ∧ t.part.lanes.l0.waiting.record = some ⟨.readLine 0 4, false⟩ ∧ t.part.lanes.l0.heldBack = none := by decide +kernel
theorem test_erasing_has_epoch_0 :
    let s : State := { mounted with
      part.segs.l0 := [seg .eraseWait 7 126 0 127], part.lanes.l0.waiting.erase := some ⟨.eraseSegment 0, false⟩ }
    ((after (.laneGrant 0) s).part.seg ⟨0, 0⟩) = seg .erasing 0 126 0 127 := by decide +kernel
theorem test_pin_reads :
    ({ serving with part.bus.byteOrd := true }).part.pinRead .winEnd false = some 0xFF7F
      ∧ ({ serving8 with part.bus.readCapture := 0x7F }).part.pinRead .post true = some 0x7F
      ∧ (serial (.framed .notice true)).part.pinRead .notice false = some 0
      ∧ State.reset.part.pinRead .control false = some 0 ∧ stopped.part.pinRead .control false = some 0xFFFF := by decide +kernel
theorem test_queue_high :
    ({ serving with part.orders.postQueue := List.replicate 12 0 }).part.queueHigh = true
      ∧ ({ serving with part.orders.postQueue := List.replicate 11 0 }).part.queueHigh = false := by decide +kernel
theorem test_stopped_releases_the_link :
    let s := after .clockStop { parked with
      part.bus.busSel := 2, part.bus.serial := .framed .take true, part.bus.dataOut := some 5 }
    s.part.bus.serial = .ignoring ∧ s.part.bus.dataOut = none := by decide +kernel
theorem test_clear_discards_the_scans_read :
    let s := after .clearTakesEffect { scanReading with
      part.power.state := .hold, part.bus.holdLevel := true, part.power.clearPending := true }
    s.part.lanes.l0.inFlight = some ⟨.scan, .readLine 0 4, 1, true⟩ ∧ s.part.scan = none := by decide +kernel
theorem test_bits_sent : frameBits [0x51] = [false, true, false, true, false, false, false, true] := by decide +kernel

/-- A mount whose last lane is lost as the wake limit expires in PARK. -/
def wakingMount : State :=
  { identifying with
    part.power.state := .park, part.power.wake := some ⟨false⟩, part.seen.storeGood := true, part.mount.step := .headers,
    part.mount.lanes := Quad.all ⟨true, 0, .line0⟩, part.lanes := ⟨idleLane, LaneRec.reset, LaneRec.reset, LaneRec.reset⟩,
    part.segs.l0 := List.replicate 16 (SegEntry.cleared .unswept) }

theorem test_mount_moves_on_after_park :
    let s := after .wakeLimit wakingMount
    s.part.mount.outcome = 3 ∧ s.part.power.state = .hold ∧ s.byte 38 = 1 := by decide +kernel

/-- Ends group 2 of the tests: Lean settles the proofs above a type before it goes on, and each unsettled one holds a
thread. -/
inductive Group2

/-! ## Witnesses: states and operands that meet the statements' hypotheses -/

theorem test_witness_EveryCommandAnswers : Instr.wf (.hold 1) = true ∧ ([] : List Byte).length ≠ 256 := by decide +kernel

/-- Just reset, with a command waiting. -/
def waiting : State := { State.reset with pending := [.zeroingEnd] }

theorem test_witness_StepKeepsSound : waiting.part.Sound ∧ ∃ t, step waiting = .next t :=
  ⟨by unfold Part.Sound; decide +kernel, _, rfl⟩

theorem test_witness_StepKeepsSlots :
    (posted mounted 1 0 77 0 0x0900 100).part.SlotsKept
      ∧ ∃ t, step { posted mounted 1 0 77 0 0x0900 100 with pending := [.put] } = .next t :=
  ⟨by unfold Part.SlotsKept; decide +kernel, _, rfl⟩

/-- RESET_N is low. -/
def resetLow : State := after .resetAssert mounted

theorem test_witness_FullReset :
    resetLow.part.power.resetLow = true ∧ resetLow.part.power.clockRunning = true
      ∧ resetLow.part.pins = ⟨false, false, false⟩
      ∧ (let warned : State := { resetLow with part.pins := ⟨true, true, true⟩ }
         warned.part.power.resetLow = true ∧ warned.part.power.clockRunning = true ∧ warned.part.pins.pwarn = true
           ∧ (after (.resetRelease ⟨0, false, false, 0⟩) warned).part.power.state = .brace)
      ∧ ({ resetLow with part.power.clockRunning := false }).part.power.resetLow = true
      ∧ serving.part.power.resetLow = false := by decide +kernel

theorem test_witness_ZeroingEndServes :
    State.reset.part.live = true ∧ State.reset.part.zeroing = true ∧ State.reset.part.mount.state = .waiting
      ∧ State.reset.part.power.state ≠ .park := by decide +kernel

theorem test_witness_HostReadValues :
    (serving.part.orders.doneList = [] ∧ ({ serving with part.orders.doneList := [31, 0] }).part.orders.doneList = 31 :: [0]
        ∧ ({ serving with part.orders.postQueue := List.replicate 16 0 }).part.orders.postQueue.length ≤ 16)
      ∧ (serving.part.served = true ∧ serving.part.busMode = .word16)
      ∧ (serving8.part.served = true ∧ serving8.part.busMode = .byte8 ∧ Reg.post ≠ .data)
      ∧ ((serial (.framed .control true)).part.served = true ∧ (serial (.framed .control true)).part.busMode = .serial
          ∧ (serial .idle).part.bus.serial ≠ .framed .control true)
      ∧ (resetLow.part.served = false ∧ resetLow.part.power.resetLow = true ∧ resetLow.part.busMode ≠ .serial)
      ∧ (State.reset.part.served = false ∧ State.reset.part.power.state ≠ .stopped ∧ State.reset.part.zeroing = true)
      ∧ (stopped.part.power.resetLow = false ∧ stopped.part.power.state = .stopped ∧ stopped.part.busMode = .word16
          ∧ ({ stopped with part.bus.busSel := 1 }).part.busMode = .byte8
          ∧ ({ stopped with part.bus.busSel := 2 }).part.busMode = .serial) := by decide +kernel

theorem test_witness_WriteValueForms :
    State.reset.part.served = false ∧ serving.part.served = true
      ∧ (serving.part.busMode = .word16 ∧ serving.part.bus.byteOrd = false)
      ∧ (({ serving with part.bus.byteOrd := true }).part.busMode = .word16)
      ∧ (serving8.part.served = true ∧ serving8.part.busMode = .byte8)
      ∧ ((serial (.framed .notice false)).part.served = true ∧ (serial (.framed .notice false)).part.busMode = .serial) := by
  decide +kernel

theorem test_witness_RegisterWriteStores :
    serving.part.writeValue .pointer 0xFFFF = some 0xFFFF ∧ serving.part.writeValue .winStart 0x8000 = some 0x8000
      ∧ serving.part.writeValue .winEnd 0 = some 0 := by decide +kernel

theorem test_witness_LowByteAccesses :
    serving8.part.served = true ∧ serving8.part.busMode = .byte8 ∧ serving8.part.orders.doneList = []
      ∧ ({ serving8 with part.orders.doneList := [31] }).part.orders.doneList = [31] := by decide +kernel

theorem test_witness_DataReads :
    (serving.part.served = true ∧ serving.part.busMode = .word16)
      ∧ ((serial (.framed .data true)).part.served = true ∧ (serial (.framed .data true)).part.busMode = .serial)
      ∧ (serving8.part.served = true ∧ serving8.part.busMode = .byte8) := by decide +kernel

theorem test_witness_DataWrites :
    (serving.part.busMode ≠ .byte8 ∧ serving.part.writeValue .data 0xABCD = some 0xABCD ∧ Mem.wf serving.part.mem = true)
      ∧ (serial (.framed .data false)).part.writeValue .data 1 = some 1
      ∧ (serving8.part.served = true ∧ serving8.part.busMode = .byte8 ∧ Mem.wf serving8.part.mem = true) := by decide +kernel

theorem test_witness_UnservedAccesses :
    (resetLow.part.served = false ∧ resetLow.part.power.resetLow = true ∧ resetLow.part.busMode ≠ .serial)
      ∧ (State.reset.part.served = false ∧ State.reset.part.power.state ≠ .stopped ∧ State.reset.part.zeroing = true)
      ∧ (stopped.part.served = false ∧ stopped.part.power.resetLow = false ∧ stopped.part.power.state = .stopped
          ∧ stopped.part.busMode = .word16)
      ∧ (({ stopped with part.bus.busSel := 1 }).part.served = false ∧ ({ stopped with part.bus.busSel := 1 }).part.busMode = .byte8)
      ∧ (({ stopped with part.bus.busSel := 2 }).part.served = false
          ∧ ({ stopped with part.bus.busSel := 2 }).part.busMode = .serial) := by decide +kernel

theorem test_witness_SerialFraming :
    ((serial .idle).part.served = true ∧ (serial .idle).part.busMode = .serial)
      ∧ (serial (.framed .data true)).part.bus.serial ≠ .idle ∧ (serial .awaitStart).part.bus.serial = .awaitStart
      ∧ ((0xC1 : Byte).extractLsb' 5 3 = 6 ∧ (0xC1 : Byte).getLsbD 4 = (serial .awaitStart).part.bus.sid)
      ∧ (0xE1 : Byte).extractLsb' 5 3 ≠ 6 ∧ (0xD1 : Byte).getLsbD 4 ≠ (serial .awaitStart).part.bus.sid
      ∧ (let off := fun (x : Serial) => after .clockStop (serial x)
         (off .idle).part.served = false ∧ (off .idle).part.busMode = .serial ∧ (off .idle).part.bus.serial = .idle
           ∧ (off .awaitStart).part.bus.serial = .awaitStart ∧ (off .ignoring).part.bus.serial = .ignoring) := by decide +kernel

/-- Ends group 3 of the tests: Lean settles the proofs above a type before it goes on, and each unsettled one holds a
thread. -/
inductive Group3

theorem test_witness_PostDecides :
    (serving.part.writeValue .post 32 = some 32 ∧ Mem.wf serving.part.mem = true ∧ serving.part.orders.intake = .ended)
      ∧ (serving.part.slot 31).held = false ∧ serving.part.orders.postQueue.length < 16
      ∧ (({ serving with part.orders.slots := serving.part.orders.slots.set 31 ⟨true, .done⟩ }).part.slot 31).held = true
      ∧ 16 ≤ ({ serving with part.orders.postQueue := List.replicate 16 0 }).part.orders.postQueue.length
      ∧ ({ serving with part.orders.postQueue := List.replicate 15 0 }).part.orders.postQueue.length < 16
      ∧ ({ serving with part.orders.intake := .low }).part.orders.intake ≠ .ended := by decide +kernel

theorem test_witness_IntakeTakesWords :
    serving.part.mounted = false ∧ ({ mounted with part.orders.lowMark := 2 }).part.orders.lowMark < mounted.part.freeCount
      ∧ ∀ i ∈ [Intake.low, .high, .post],
          ({ serving with part.orders.intake := i }).part.writeValue .post 65 = some 65 := by decide +kernel

theorem test_witness_TakeReturnsOldest :
    (serving.part.served = true ∧ serving.part.busMode = .word16 ∧ serving.part.orders.doneList = [])
      ∧ ({ serving with part.orders.doneList := [31, 0] }).part.orders.doneList = 31 :: [0]
      ∧ ((serial (.framed .take true)).part.served = true ∧ (serial (.framed .take true)).part.busMode = .serial)
      ∧ serving8.part.busMode = .byte8 := by decide +kernel

theorem test_witness_NoticesAndAttn :
    (serving8.part.served = true ∧ serving8.part.busMode = .byte8)
      ∧ serving.part.writeValue .notice 0x01FF = some 0x01FF ∧ serving.part.bus.sticky.getLsbD 0 = false
      ∧ serving.part.bus.sticky &&& 1 = 0 := by decide +kernel

/-- A CONTROL write of this value reaches the part, with CLEAR and CUT 0. -/
def levelWrite (s : State) (d : Word) : Bool :=
  s.part.writeValue .control d == some d && !d.getLsbD 2 && !d.getLsbD 3

theorem test_witness_ControlLevelsAct :
    (levelWrite mounted 0 = true ∧ mounted.part.power.state = .active)
      ∧ (levelWrite mounted 1 = true ∧ levelWrite mounted 2 = true ∧ mounted.part.head.append = none
          ∧ mounted.part.lanesIdle = true ∧ (flying mounted .erase (.eraseSegment 1)).part.lanesIdle = false)
      ∧ (levelWrite held 0 = true ∧ held.part.power.state = .hold ∧ held.part.seen.pwarn = false ∧ held.part.scan = none
          ∧ held.part.reclaim.latchedTrigger = false ∧ held.part.reclaim.releasePending = false
          ∧ held.part.head.append = none)
      ∧ levelWrite { held with part.power.clearPending := true } 0 = true
      ∧ (let braced : State := { held with part.power.state := .brace, part.seen.pwarn := true }
         levelWrite braced 2 = true ∧ braced.part.power.state = .brace ∧ levelWrite held 1 = true ∧ levelWrite held 2 = true
           ∧ held.part.lanesIdle = true ∧ levelWrite { held with part.seen.pwarn := true } 0 = true
           ∧ (flying held .erase (.eraseSegment 1)).part.lanesIdle = false) := by decide +kernel

theorem test_witness_ControlInPark :
    (levelWrite parked 0 = true ∧ parked.part.power.state = .park ∧ parked.part.power.wake = none)
      ∧ levelWrite { parked with part.power.wake := some ⟨false⟩ } 2 = true := by decide +kernel

theorem test_witness_RequestsReachOwners :
    (held.part.writeValue .control 5 = some 5 ∧ held.part.power.state = .hold ∧ held.part.head.append = none)
      ∧ (mounted.part.writeValue .control 5 = some 5 ∧ mounted.part.power.state = .active
          ∧ mounted.part.power.parkPending = false ∧ mounted.part.head.append = none)
      ∧ (mounted.part.writeValue .control 8 = some 8 ∧ mounted.part.scan = none)
      ∧ ((scanning { scanOrder with inHand := some hand }).part.writeValue .control 8 = some 8)
      ∧ (({ scanning scanOrder with part.power.state := .brace }).part.writeValue .control 8 = some 8
          ∧ Mem.wf (scanning scanOrder).part.mem = true)
      ∧ (mounted.part.writeValue .control 4 = some 4 ∧ held.part.writeValue .control 4 = some 4
          ∧ ({ held with part.power.state := .brace, part.seen.pwarn := true }).part.writeValue .control 6 = some 6
          ∧ held.part.writeValue .control 5 = some 5 ∧ held.part.lanesIdle = true)
      ∧ (parked.part.writeValue .control 4 = some 4 ∧ parked.part.writeValue .control 6 = some 6 ∧ parked.part.power.state = .park)
      ∧ (let cuts := fun (st : PowerState) => ({ scanReading with part.power.state := st } : State).part
         (cuts .hold).writeValue .control 9 = some 9 ∧ (cuts .park).writeValue .control 10 = some 10
           ∧ (cuts .brace).writeValue .control 8 = some 8 ∧ (cuts .hold).scan.isSome = true ∧ Mem.wf (cuts .park).mem = true)
      ∧ ((scanning scanOrder).part.writeValue .control 8 = some 8 ∧ scanOrder.inHand = none
          ∧ (scanning scanOrder).part.power.state = .active)
      ∧ ((discarding.part.lane 0).inFlight = some ⟨.record, .readLine 0 3, 1, true⟩ ∧ (mounted.part.lane 0).inFlight = none)
      ∧ (held.part.writeValue .control 13 = some 13 ∧ parked.part.writeValue .control 14 = some 14
          ∧ mounted.part.writeValue .control 12 = some 12 ∧ mounted.part.power.parkPending = false
          ∧ ({ scanning scanOrder with part.power.state := .brace }).part.writeValue .control 12 = some 12)
      ∧ (let slots := (scanning scanOrder).part.orders.slots.set 3 ⟨true, .running⟩
         let both : State := { scanning scanOrder with part.power.state := .hold, part.orders.slots := slots }
         (after (.clear 13) both).part.orders.doneList = [] ∧ (after (.clear 13) both).slotByte 3 0 = 4
           ∧ (after (.clear 13) both).slotByte 3 3 = 0 ∧ (after (.cut 13) both).part.orders.doneList = [3]
           ∧ (after (.cut 13) both).slotByte 3 4 = 33)
      ∧ ({ held with part.power.clearPending := true }).part.live = true := by
  decide +kernel

theorem test_witness_ClearTakesEffect :
    let s : State := { posted held 1 0 77 0 0x0900 100 with part.power.clearPending := true }
    let b : State := { s with part.power.state := .brace, part.seen.pwarn := true }
    (s.part.live = true ∧ s.part.power.clearPending = true ∧ s.part.power.state = .hold ∧ s.part.head.append = none
        ∧ Mem.wf s.part.mem = true ∧ (s.part.slot 0).held = true ∧ s.part.seen.pwarn = false
        ∧ (s.part.bus.holdLevel || s.part.bus.parkLevel) = true ∧ s.part.power.parkPending = false)
      ∧ (b.part.live = true ∧ b.part.power.state = .brace ∧ b.part.seen.pwarn = true)
      ∧ ({ b with part.bus.holdLevel := false }).part.bus.parkLevel = false
      ∧ (({ parked with part.power.clearPending := true }).part.power.state = .park ∧ parked.part.live = true)
      ∧ (mounted.part.freeCount ≤ mounted.part.orders.lowMark
          ∧ ({ mounted with part.orders.lowMark := 2 }).part.orders.lowMark < mounted.part.freeCount ∧ serving.part.mounted = false)
      ∧ (walking.part.reclaim.tail = some ⟨0, 1⟩ ∧ (walking.part.seg ⟨0, 1⟩).state = .reclaiming
          ∧ (walking.part.lane 0).flier = some .reclaim ∧ (scanReading.part.lane 0).flier = some .scan)
      ∧ (getting.part.heldReaders ⟨0, 0⟩ = 1 ∧ scanReading.part.heldReaders ⟨0, 0⟩ = 1 ∧ mounted.part.heldReaders ⟨0, 0⟩ = 0)
      ∧ ((discarding.part.lane 0).inFlight = some ⟨.record, .readLine 0 3, 1, true⟩ ∧ (mounted.part.lane 0).inFlight = none) := by
  decide +kernel

theorem test_witness_QuietParks :
    (held.part.live = true ∧ held.part.lanesIdle = true ∧ held.part.head.append = none ∧ held.part.power.state = .hold
        ∧ held.part.power.parkPending = false)
      ∧ (let s : State := { held with part.power.state := .brace, part.power.parkPending := true }
         s.part.power.state = .brace ∧ s.part.power.quietSeen = false ∧ s.part.power.wake = none ∧ s.part.lanesIdle = true
           ∧ s.part.head.append = none ∧ (flying s .erase (.eraseSegment 1)).part.lanesIdle = false
           ∧ ({ s with part.power.quietSeen := true }).part.power.parkPending = true) := by decide +kernel

theorem test_witness_WakeEnds :
    let s : State := { parked with part.power.wake := some ⟨true⟩ }
    s.part.live = true ∧ s.part.power.state = .park ∧ s.part.power.wake = some ⟨true⟩ ∧ s.part.power.wake.isSome = true
      ∧ s.part.present 0 = true ∧ s.part.present 3 = false
      ∧ ({ parked with part.power.wake := some ⟨false⟩ }).part.power.wake ≠ some ⟨true⟩
      ∧ (parked.part.power.wake = none ∧ mounted.part.live = true ∧ mounted.part.power.state ≠ .park) := by decide +kernel

theorem test_witness_PwarnBraces :
    mounted.part.live = true ∧ mounted.part.head.append = none ∧ mounted.part.power.parkPending = false
      ∧ ({ held with part.power.state := .brace }).part.live = true := by decide +kernel

theorem test_witness_WinhHoldsPrograms :
    let waits := after .orderAppendGrant dropping
    let opens := after .orderAppendGrant { dropping with part.segs.l0 := List.replicate 8 (SegEntry.cleared .free) }
    (mounted.part.live = true ∧ mounted.part.head.append = none ∧ mounted.part.seen.winh = false
        ∧ mounted.part.power.state = .active)
      ∧ (programming.part.head.append.map (·.step) = some (.programming ⟨0, 0⟩ 5)
          ∧ (programming.part.lane 0).flier = some .head)
      ∧ (programming.part.head.append.map fun a => ({ a with started := true } : Append).started) = some true
      ∧ (∀ step ∈ [AppendStep.opening ⟨0, 2⟩, .closing ⟨0, 0⟩ .noRoom],
          ((turning step).part.head.append.all fun a => !a.started && a.step == step) = true
            ∧ ((turning step).part.lane 0).flier = some .head)
      ∧ ((waits.part.head.append.any fun a => !a.started && a.step.seg == some ⟨0, 0⟩) = true
          ∧ (waits.part.lane 0).flier ≠ some .head)
      ∧ ((opens.part.head.append.any fun a => !a.started && a.step == .opening ⟨0, 0⟩) = true
          ∧ (opens.part.lane 0).flier ≠ some .head)
      ∧ ((after .copyGrant copying).part.head.append.any fun a => match a.work with
            | .copy _ => true
            | .order _ => false) = true
      ∧ ((Append.fresh (.order tombstoneReq) 9).noteSetBack .power).setBack = some .power
      ∧ (turning (.opening ⟨0, 2⟩)).part.live = true ∧ (turning (.closing ⟨0, 0⟩ .noRoom)).part.reclaim.state ≠ .stalled
      ∧ (let stalls : State := { turning (.closing ⟨0, 0⟩ .noRoom) with part.reclaim.state := .stalled }
         stalls.part.live = true ∧ (stalls.part.seg ⟨0, 0⟩).state = .head ∧ (stalls.part.seg ⟨0, 0⟩).claimed < 126) := by
  decide +kernel

/-- WAITING, with the mount settle count running. -/
def settling : State := { serving with part.mount.settle := true }

theorem test_witness_StoreGoodStartsMount :
    (serving.part.live = true ∧ serving.part.seen.storeGood = false ∧ serving.part.mount.state = .waiting
        ∧ serving.part.zeroing = false ∧ serving.part.power.state ≠ .park)
      ∧ (({ parked with part.power.wake := some ⟨false⟩ }).part.power.wake.isSome = true)
      ∧ (settling.part.live = true ∧ settling.part.mount.settle = true ∧ (∀ l, settling.part.lane l = LaneRec.reset)
          ∧ settling.part.mount.lanes = Mount.reset.lanes) := by decide +kernel

theorem test_witness_LanesLost :
    let s : State := { identifying with
      part.seen.storeGood := true, part.lanes.l0 := idleLane, part.lanes.l1.waiting.mount := some ⟨.identify, false⟩,
      part.lanes.l2.state := .absent }
    (s.part.live = true ∧ s.part.seen.storeGood = true ∧ s.part.power.state ≠ .park ∧ s.part.present 0 = true
        ∧ (s.part.lane 1).identifying = true ∧ (s.part.lane 2).state = .absent ∧ parked.part.power.state = .park
        ∧ ({ parked with part.seen.storeGood := true }).part.live = true)
      ∧ (getting.part.live = true ∧ (getting.part.lane 0).inFlight = some ⟨.record, .readLine 0 4, 1, false⟩)
      ∧ (identifying.part.live = true ∧ (identifying.part.lane 0).inFlight = some ⟨.mount, .identify, 2, false⟩
          ∧ identifying.part.mount.state = .mounting ∧ identifying.part.mount.step = .identify
          ∧ (identifying.part.mount.lanes.get 1).identEnded = false)
      ∧ (let last : State := { identifying with
           part.mount.lanes := ⟨⟨false, 0, .line0⟩, ⟨true, 0, .line0⟩, ⟨true, 0, .line0⟩, ⟨true, 0, .line0⟩⟩,
           part.lanes.l1 := idleLane }
         last.part.live = true ∧ (last.part.lane 0).inFlight = some ⟨.mount, .identify, 2, false⟩
           ∧ (after (.timeLimitExpiry 0) last).part.mount.step = .headers)
      ∧ ((getting.part.lane 0).flier ≠ some .scan ∧ (getting.part.lane 0).waiting.get .scan = none
          ∧ (s.part.lane 1).waiting.get .mount = some ⟨.identify, false⟩ ∧ (s.part.lane 1).flier ≠ some .mount)
      ∧ (mounted.part.headSeg = some (⟨0, 0⟩, seg .head 8 4 1 5) ∧ (0 : Lane) ∈ [(0 : Lane)] ∧ (0 : Lane) ∉ [(1 : Lane)])
      ∧ (walking.part.reclaim.tail = some ⟨0, 1⟩ ∧ getting.part.record.isSome = true
          ∧ (scanReading.part.scan.bind (·.inHand)).isSome = true)
      ∧ (programming.part.head.append.isSome = true
          ∧ (turning (.opening ⟨0, 2⟩)).part.head.append.map (·.setBack) = some none
          ∧ (({ turning (.closing ⟨0, 0⟩ .noRoom) with part.segs.l0 := [seg .closed 8 4 1 5] }).part.seg ⟨0, 0⟩).state ≠ .head)
      ∧ ((discarding.part.lane 0).inFlight = some ⟨.record, .readLine 0 3, 1, true⟩
          ∧ (discarding.part.lane 0).waiting.get .record = none)
      ∧ ((mounted.part.dropLanes [0]).freeCount < mounted.part.freeCount ∧ mounted.part.mount.state ≠ .mounting
          ∧ heading.part.mount.state = .mounting ∧ heading.part.mount.step = .headers)
      ∧ (({ mounted with part.segs.l0 := [seg .eraseWait 7 126 0 127, seg .erasing 0 0 0 1] }).part.lostErases [0] = [⟨0, 0⟩, ⟨0, 1⟩]
          ∧ mounted.part.lostErases [0] = [])
      ∧ (∀ cause ∈ [CloseCause.noRoom, .firstFailure, .secondFailure],
          ((turning (.closing ⟨0, 0⟩ cause)).part.head.append.any fun a => a.step == .closing ⟨0, 0⟩ cause) = true)
      ∧ ((Append.fresh (.order tombstoneReq) 9).noteSetBack .power).setBack.isSome = true
      ∧ ((after (.laneGrant 0) (after .copyGrant copying)).part.head.append.any fun a => match a.work with
            | .copy _ => a.step == .programming ⟨0, 0⟩ 5
            | .order _ => false) = true := by
  decide +kernel

theorem test_witness_ClockStopsAndReturns :
    let s := after .clockReturn stopped
    (parked.part.power.resetLow = false ∧ parked.part.power.state = .park) ∧ mounted.part.power.state ≠ .park
      ∧ ({ parked with part.bus.busSel := 2 }).part.busMode = .serial ∧ parked.part.busMode ≠ .serial
      ∧ (stopped.part.power.state = .stopped ∧ stopped.part.power.clockRunning = false)
      ∧ ((after .clockStop mounted).part.power.state ≠ .stopped ∧ (after .clockStop mounted).part.power.clockRunning = false)
      ∧ mounted.part.power.clockRunning = true
      ∧ (s.part.power.state = .stopped ∧ s.part.power.clockRunning = true ∧ s.part.power.returnCounting = true
          ∧ s.part.power.resetLow = false ∧ s.part.bus.parkLevel = true ∧ s.part.power.wake = none ∧ s.part.head.append = none
          ∧ s.part.mount.settle = false)
      ∧ ({ s with part.bus.parkLevel := false }).part.bus.parkLevel = false
      ∧ resetLow.part.power.resetLow = true ∧ (isInside .entryBoundary = true ∧ Instr.entryBoundary.wf = true)
      ∧ mounted.part.live = true := by
  decide +kernel

/-- Ends group 4 of the tests: Lean settles the proofs above a type before it goes on, and each unsettled one holds a
thread. -/
inductive Group4

theorem test_witness_LaneGrantIssues :
    let s : State := { mounted with part.lanes.l0.waiting.mount := some ⟨.readLine 0 0, false⟩ }
    let e : State := { mounted with
      part.segs.l0 := [seg .head 8 4 1 5, seg .eraseWait 7 126 0 127, seg .eraseWait 9 126 0 127],
      part.lanes.l0.waiting.erase := some ⟨.eraseSegment 1, false⟩ }
    ((65535 : Nat) < 65536 ∧ (255 : Nat) < 256)
      ∧ (s.part.live = true ∧ (s.part.lane 0).inFlight = none
          ∧ (s.part.lane 0).waiting.get .mount = some ⟨.readLine 0 0, false⟩
          ∧ s.part.grantable .mount ⟨.readLine 0 0, false⟩ = true
          ∧ ((s.part.lane 0).lastGranted.after).idxOf .mount = 0)
      ∧ (e.part.live = true ∧ e.part.grantable .erase ⟨.eraseSegment 1, false⟩ = true
          ∧ ∀ other ∈ [Requester.mount, .record, .scan, .reclaim, .head], (e.part.lane 0).waiting.get other = none)
      ∧ (e.part.eligible ⟨0, 1⟩ (e.part.seg ⟨0, 1⟩) = true ∧ e.part.eligible ⟨0, 0⟩ (e.part.seg ⟨0, 0⟩) = false
          ∧ e.part.eligible ⟨0, 2⟩ (e.part.seg ⟨0, 2⟩) = false
          ∧ ({ e with part.lanes.l0 := idleLane }).part.eraseStands 0 = false ∧ (e.part.lane 0).flier ≠ some .erase)
      ∧ ((flying mounted .erase (.eraseSegment 1)).part.lane 0).flier = some .erase ∧ mounted.part.eraseChoice 0 = none := by
  decide +kernel

theorem test_witness_IdentifyEnds :
    identifying.part.live = true ∧ (identifying.part.lane 0).inFlight = some ⟨.mount, .identify, 2, false⟩
      ∧ identifying.part.mount.step = .identify ∧ identifying.part.mount.state = .mounting
      ∧ (identifying.part.mount.lanes.get 1).identEnded = false
      ∧ (0x10 : Byte).toNat + 256 * (0x00 : Byte).toNat = 16 ∧ (0x00 : Byte).toNat + 256 * (0x04 : Byte).toNat = 1024
      ∧ (0x0F : Byte).toNat + 256 * (0x00 : Byte).toNat < 16 ∧ 1024 < (0x01 : Byte).toNat + 256 * (0x04 : Byte).toNat
      ∧ (let last := lostEarly .closed
         let all := fun (s : State) => { s.part with mount.lanes := Quad.all ⟨true, 0, .line0⟩ }
         last.part.live = true ∧ (last.part.lane 3).inFlight = some ⟨.mount, .identify, 2, false⟩
           ∧ (all last).mount.state = .mounting ∧ (all last).mount.step = .identify
           ∧ (∀ l, ((all last).mount.lanes.get l).identEnded = true) ∧ ((all last).lane 0).state = .offline
           ∧ ∀ l, ((all identifying).lane l).state ≠ .present ∧ ((all identifying).lane l).state ≠ .offline) := by
  decide +kernel

theorem test_witness_ReadLineEndsGet :
    (getting.part.live = true ∧ (getting.part.lane 0).inFlight = some ⟨.record, .readLine 0 4, 1, false⟩
        ∧ getting.part.record.isSome = true ∧ (0 : Nat) < 1 ∧ (2 : Nat) ≤ 1 + 1)
      ∧ ((({ mounted with part.lanes.l0.inFlight := some ⟨.reclaim, .readLine 1 1, 1, true⟩ }).part.lane 0).inFlight
          = some ⟨.reclaim, .readLine 1 1, 1, true⟩ ∧ (List.replicate 256 (0 : Byte)).length = 256)
      ∧ (let s : State := { discarding with part.lanes.l0.heldBack := some ⟨.readLine 0 4, false⟩ }
         (s.part.lane 0).inFlight = some ⟨.record, .readLine 0 3, 1, true⟩
           ∧ (s.part.lane 0).heldBack = some ⟨.readLine 0 4, false⟩ ∧ (discarding.part.lane 0).heldBack = none)
      ∧ ((firstGet 1).part.live = true ∧ ((firstGet 1).part.lane 0).inFlight = some ⟨.record, .readLine 0 4, 1, false⟩
          ∧ (firstGet 2).part.record.isSome = true)
      ∧ (headerCheckOk (List.replicate 256 0) = false ∧ headerCheckOk (recordLine 8) = true
          ∧ recordAgrees hand.entry 8 (recordLine 8) ∧ ¬ recordAgrees hand.entry 7 (recordLine 8))
      ∧ ((0 : Nat) + 1 < 2 ∧ (1 : Nat) ≤ 0 + 1 ∧ (firstGet 2).part.present 0 = true
          ∧ ({ firstGet 2 with part.lanes.l0.state := .offline }).part.present 0 = false) := by
  unfold recordAgrees; decide +kernel

theorem test_witness_ReadLineEndsWalk :
    walking.part.live = true ∧ (walking.part.lane 0).inFlight = some ⟨.reclaim, .readLine 1 4, 1, false⟩
      ∧ walking.part.reclaim.tail = some ⟨0, 1⟩ ∧ walking.part.reclaim.inHand = none
      ∧ 0 < (walking.part.seg ⟨0, 1⟩).claimed
      ∧ (blankLine (recordLine 7) = false ∧ headerValid 7 4 (recordLine 7) = true ∧ (recordLine 7).length = 256)
      ∧ headerValid 7 4 (recordLine 8) = false
      ∧ (dirLookup walking.part.dir 10).any (fun x => x.loc == ⟨⟨0, 1⟩, 4⟩ && !x.gone) = true
      ∧ (dirLookup mounted.part.dir 10).any (fun x => x.loc != ⟨⟨0, 1⟩, 4⟩) = true
      ∧ (let h := fun (lines : Nat) => (⟨readHeader (recordLine 7), 4, lines, 1, recordLine 7⟩ : Hand)
         ({ walking with part.reclaim.inHand := some (h 3) }).part.reclaim.inHand = some (h 3) ∧ (h 3).got + 1 < (h 3).lines
           ∧ (h 2).lines ≤ (h 2).got + 1) := by decide +kernel

theorem test_witness_ReadLineEndsScan :
    (scanReading.part.live = true ∧ (scanReading.part.lane 0).inFlight = some ⟨.scan, .readLine 0 4, 1, false⟩
        ∧ scanReading.part.scan.isSome = true ∧ hand.entry.lines ≤ hand.next + 1
        ∧ (PayloadRun.start.feed 20 0 (recordLine 8)).ok = true
        ∧ (PayloadRun.start.feed 20 0 (List.replicate 256 0)).ok = false
        ∧ scanOrder.fields.cmpOffset.toNat + scanOrder.fields.patLength.toNat ≤ hand.entry.length
        ∧ scanOrder.hits < scanOrder.fields.bufLength.toNat / 8)
      ∧ (let f : OrderFields := { scanOrder.fields with cmpOffset := 4060, patLength := 16 }
         let payload : List Byte := List.replicate 4076 0
         payload.length ≤ 4076 ∧ f.patLength.toNat ≤ f.pattern.length
           ∧ f.cmpOffset.toNat + f.patLength.toNat ≤ payload.length)
      ∧ (hand.headerJudged = false ∧ headerCheckOk (List.replicate 256 0) = false ∧ headerCheckOk (recordLine 8) = true
          ∧ recordAgrees hand.entry 8 (recordLine 8) ∧ ¬ recordAgrees hand.entry 7 (recordLine 8))
      ∧ (({ hand with entry.lines := 2 } : ScanHand).next + 1 < 2 ∧ scanReading.part.present 0 = true
          ∧ ({ scanReading with part.lanes.l0.state := .offline }).part.present 0 = false)
      ∧ (modeHit 5 .eq = true ∧ modeHit 1 .gt = false
          ∧ scanOrder.fields.bufLength.toNat / 8 ≤ ({ scanOrder with hits := 2 }).hits) := by
  unfold recordAgrees; decide +kernel

theorem test_witness_ReadLineEndsMount :
    let step := fun (sub : HeaderSub) => ({ heading with part.mount.lanes.l0 := ⟨true, 3, sub⟩ } : State).part
    let twice : State := { mounted with part.segs.l0 := [seg .closed 8 4 0 5, seg .closed 8 126 0 127] }
    (heading.part.live = true ∧ (heading.part.lane 0).inFlight = some ⟨.mount, .readLine 3 0, 1, false⟩
        ∧ (heading.part.lane 0).waiting.mount = none ∧ (heading.part.lane 0).state = .present
        ∧ heading.part.mount.state = .mounting ∧ heading.part.mount.step = .headers
        ∧ heading.part.mount.lanes.get 0 = ⟨true, 3, .line0⟩ ∧ 3 + 1 < (heading.part.lane 0).count
        ∧ 3 < (heading.part.segs.get 0).length ∧ heading.part.power.state ≠ .park)
      ∧ (judgeHeader ⟨0, 3⟩ (segmentHeader 1 ⟨0, 3⟩) = .valid 1 ∧ judgeHeader ⟨0, 3⟩ (List.replicate 256 0xFF) = .blank
          ∧ judgeHeader ⟨0, 3⟩ (List.replicate 256 0) = .invalid)
      ∧ ((step .line0).mount.lanes.get 0).sub = .line0
      ∧ (((step (.trailer 1)).mount.lanes.get 0).sub = .trailer 1 ∧ judgeTrailer 1 (trailer 1 127 126) = some (127, 126)
          ∧ judgeTrailer 2 (trailer 1 127 126) = none)
      ∧ (((step (.blank 126)).mount.lanes.get 0).sub = .blank 126 ∧ ((step (.blank 127)).mount.lanes.get 0).sub = .blank 127
          ∧ blankLine (List.replicate 256 0xFF) = true ∧ blankLine (List.replicate 256 0) = false)
      ∧ (serving.part.chain = [] ∧ (∀ l, serving.part.present l = false))
      ∧ (mounted.part.chain ≠ [] ∧ (mounted.part.chain.map fun x => x.2.epoch).Nodup)
      ∧ ¬ (twice.part.chain.map fun x => x.2.epoch).Nodup
      ∧ ((step .line0).lane 0).count - 3 = 13 ∧ ((step .line0).lane 0).count - 16 = 0
      ∧ (mounted.part.mount.state ≠ .mounting
          ∧ (identifying.part.mount.step = .identify ∧ (identifying.part.mount.lanes.get 1).identEnded = false)
          ∧ (heading.part.present 0 = true ∧ ¬ (heading.part.lane 0).count ≤ (heading.part.mount.lanes.get 0).nextSeg)
          ∧ (let done : State := { heading with part.mount.lanes.l0 := ⟨true, 16, .line0⟩ }
             ∀ l, done.part.present l = true → (done.part.lane l).count ≤ (done.part.mount.lanes.get l).nextSeg))
      ∧ (let early : State := { heading with part.mount.step := .identify, part.lanes.l0.inFlight := none }
         early.part.mount.step = .identify ∧ early.part.present 0 = true ∧ early.part.power.state = .active
           ∧ (early.part.lane 0).waiting.mount = none ∧ (early.part.lane 0).flier ≠ some .mount
           ∧ (early.part.mount.lanes.get 0).nextSeg < (early.part.lane 0).count)
      ∧ (heading.part.lane 0).flier = some .mount := by decide +kernel

theorem test_witness_MountWalksAndEnds :
    let member := fun (trailered : Bool) (g : Nat) => ({ seg .closed 7 0 0 g with trailered := trailered } : SegEntry)
    let at4 := fun (phase : WalkPhase) (line : Nat) => (⟨⟨0, 1⟩, 4, 1, phase, line, 3⟩ : MountWalk)
    let walks := fun (w : MountWalk) (trailered : Bool) (g : Nat) => (flying { mounted with
        part.mount.state := .mounting, part.mount.step := .records, part.mount.walk := some w,
        part.segs.l0 := [member false 1, member trailered g] } .mount (.readLine 1 4)).part
    let p := walks (at4 .header 4) true 127
    (p.live = true ∧ (p.lane 0).inFlight = some ⟨.mount, .readLine 1 4, 1, false⟩ ∧ p.mount.step = .records
        ∧ p.mount.walk = some (at4 .header 4) ∧ (p.seg ⟨0, 1⟩).trailered = true)
      ∧ (headerValid 7 4 (recordLine 7) = true ∧ headerValid 7 4 (recordLine 8) = false ∧ blankLine (recordLine 7) = false
          ∧ 4 + lineCount (readHeader (recordLine 7)).length - 1 ≤ 127 - 1
          ∧ 4 + lineCount (readHeader (recordLine 7)).length < 127 ∧ 5 ≤ 4 + lineCount (readHeader (recordLine 7)).length)
      ∧ ((dirMount ⟨10, 6, false, ⟨⟨0, 1⟩, 4⟩, 20, 1⟩ mounted.part.dir).isSome = true
          ∧ dirCapacity ≤ (List.replicate 4096 (⟨10, 5, false, ⟨⟨0, 0⟩, 4⟩, 20, 1⟩ : DirEntry)).length)
      ∧ ((walks (at4 .rest 126) false 4).seg ⟨0, 1⟩).trailered = false
      ∧ ((walks (at4 .rest 126) false 4).youngest ⟨0, 0⟩ = true ∧ (walks (at4 .rest 126) false 4).youngest ⟨0, 1⟩ = false)
      ∧ ((mounted.part.nextMember 0).map (·.1) = some ⟨0, 1⟩ ∧ mounted.part.nextMember 8 = none
          ∧ mounted.part.present 0 = true ∧ ({ mounted with part.lanes.l0.state := .offline }).part.present 0 = false)
      ∧ ((member true 1).trailered = true ∧ (member true 1).goodEnd ≤ 1)
      ∧ ((({ mounted with part.mount := p.mount }).part.lane 0).waiting.mount = none
          ∧ (({ mounted with part.mount := p.mount }).part.lane 0).flier ≠ some .mount
          ∧ p.power.state ≠ .park ∧ p.power.state ≠ .stopped ∧ p.mount.state = .mounting)
      ∧ (serving.part.chain = [] ∧ (highestEpoch mounted.part.chain).map (·.1) = some ⟨0, 0⟩)
      ∧ ((seg .closed 7 125 0 5).trailered = false ∧ (seg .closed 7 125 0 5).used < 126 ∧ ¬ (seg .closed 7 126 0 5).used < 126)
      ∧ (mounted.part.orders.intake = .ended ∧ ({ mounted with part.orders.intake := .low }).part.orders.intake ≠ .ended)
      ∧ 1 < (p.segs.get 0).length ∧ p.present 0 = true ∧ heading.part.mount.walk = none := by decide +kernel

theorem test_witness_ProgramLineEnds :
    (programming.part.live = true ∧ (programming.part.lane 0).inFlight = some ⟨.head, .programLine 0 5 [], 6, false⟩
        ∧ programming.part.head.append.isSome = true)
      ∧ tombstoneReq.lines ≤ 0 + 1 ∧ (0 : Nat) + 1 < (Work.order { tombstoneReq with lines := 2 }).lines
      ∧ dirLookup ({ programming with part.dir := [] }).part.dir tombstoneReq.key = none
      ∧ (dirLookup programming.part.dir tombstoneReq.key).isSome = true
      ∧ (let s := after (.laneGrant 0) (after .copyGrant copying)
         s.part.live = true ∧ (s.part.lane 0).flier = some .head ∧ (dirLookup s.part.dir 10).isSome = true
           ∧ (s.part.head.append.any fun a => a.step == .programming ⟨0, 0⟩ 5 && decide (a.work.lines ≤ a.done + 1)) = true)
      ∧ ((List.replicate 4076 (0 : Byte)).length ≤ 4076 ∧ 15 < lineCount (List.replicate 4076 (0 : Byte)).length
          ∧ 0 < lineCount ([] : List Byte).length)
      ∧ (dropping.part.record.isSome = true ∧ mounted.part.record = none) := by
  decide +kernel

theorem test_witness_ProgramLineEndsOpenClose :
    ((turning (.opening ⟨0, 2⟩)).part.live = true
        ∧ ((turning (.opening ⟨0, 2⟩)).part.lane 0).inFlight = some ⟨.head, .programLine 0 0 [], 6, false⟩
        ∧ ((turning (.opening ⟨0, 2⟩)).part.head.append.all fun a => a.setBack.isNone) = true)
      ∧ (turning (.closing ⟨0, 0⟩ .noRoom)).part.reclaim.state ≠ .stalled
      ∧ (let stalls : State := { turning (.closing ⟨0, 0⟩ .secondFailure) with part.reclaim.state := .stalled }
         stalls.part.live = true ∧ (stalls.part.lane 0).inFlight = some ⟨.head, .programLine 0 0 [], 6, false⟩
           ∧ (stalls.part.seg ⟨0, 0⟩).state = .head ∧ (stalls.part.seg ⟨0, 0⟩).claimed < 126
           ∧ (stalls.part.head.append.any fun a => a.step == .closing ⟨0, 0⟩ .secondFailure && a.setBack.isNone) = true) := by
  decide +kernel

theorem test_witness_EraseEnds :
    let s := flying mounted .erase (.eraseSegment 2)
    s.part.live = true ∧ (s.part.lane 0).inFlight = some ⟨.erase, .eraseSegment 2, 80, false⟩
      ∧ s.part.reclaim.attached = none ∧ s.part.format = none ∧ s.part.reclaim.copyWait = false ∧ s.part.head.orderReq = none
      ∧ (s.part.seg ⟨0, 2⟩).retire = false := by decide +kernel

theorem test_witness_ReclaimGoesOn :
    let closed := fun (claimed : Nat) => (seg .closed 7 126 claimed 127)
    let table := fun (xs : List SegEntry) => ({ mounted with part.segs.l0 := xs } : State).part
    let e := flying mounted .erase (.eraseSegment 2)
    let job : FormatJob := ⟨0, true, [⟨0, 2⟩], 1⟩
    ((table [seg .head 8 4 1 5]).chain.length < 2
        ∧ (2 ≤ (table [seg .head 8 4 1 5, closed 126]).chain.length ∧ (table [seg .head 8 4 1 5, closed 126]).saturation = true)
        ∧ (2 ≤ mounted.part.chain.length ∧ mounted.part.saturation = false
            ∧ (lowestEpoch mounted.part.chain).any (fun x => x.2.state == .closed && mounted.part.present x.1.lane) = true)
        ∧ (lowestEpoch (table [seg .head 6 4 1 5, closed 9]).chain).any (fun x => x.2.state != .closed) = true
        ∧ ({ mounted with part.lanes.l0.state := .offline }).part.present 0 = false)
      ∧ (mounted.part.power.state = .active ∧ held.part.power.state ≠ .active ∧ mounted.part.reclaim.state = .idle
          ∧ walking.part.reclaim.state = .copying
          ∧ ({ mounted with part.reclaim.state := .stalled }).part.reclaim.state = .stalled)
      ∧ (walking.part.reclaim.tail = some ⟨0, 1⟩ ∧ walking.part.reclaim.pos < (walking.part.seg ⟨0, 1⟩).goodEnd
          ∧ (walking.part.seg ⟨0, 1⟩).goodEnd ≤ ({ walking with part.reclaim.pos := 127 }).part.reclaim.pos)
      ∧ (walking.part.live = true ∧ (walking.part.lane 0).inFlight = some ⟨.reclaim, .readLine 1 4, 1, false⟩
          ∧ walking.part.reclaim.inHand = none
          ∧ (({ walking with part.segs.l0 := [seg .head 8 4 1 5, seg .reclaiming 7 126 0 127] }).part.seg ⟨0, 1⟩).claimed = 0
          ∧ blankLine (List.replicate 256 0xFF) = true ∧ headerValid 7 4 (recordLine 8) = false)
      ∧ (copying.part.reclaim.tail = some ⟨0, 1⟩ ∧ copying.part.reclaim.inHand.isSome = true)
      ∧ (e.part.live = true ∧ (e.part.lane 0).inFlight = some ⟨.erase, .eraseSegment 2, 80, false⟩
          ∧ (e.part.seg ⟨0, 2⟩).retire = false ∧ ({ seg .erasing 0 0 0 1 with retire := true }).retire = true)
      ∧ (job.waitSet.filter (· ≠ ⟨0, 2⟩) = [] ∧ [(⟨0, 2⟩ : SegAddr), ⟨0, 3⟩].filter (· ≠ ⟨0, 2⟩) ≠ []
          ∧ (⟨0, 2⟩ : SegAddr) ∈ job.waitSet ∧ (⟨0, 4⟩ : SegAddr) ∉ job.waitSet)
      ∧ (let waits : State := { copying with part.head.copyReq := none, part.reclaim.copyWait := true }
         waits.part.reclaim.copyWait = true ∧ waits.part.reclaim.tail = some ⟨0, 1⟩ ∧ waits.part.reclaim.inHand.isSome = true
           ∧ copying.part.reclaim.copyWait = false ∧ waits.part.eraseComing = false
           ∧ (table [seg .eraseWait 7 126 0 127]).eraseComing = true)
      ∧ (mounted.part.reclaim.tail = none ∧ walking.part.reclaim.inHand = none) := by decide +kernel

theorem test_witness_CompletionWrites : Mem.wf (posted mounted 1 0 77 0 0x0900 100).part.mem = true := by decide +kernel

/-- The hypotheses of the refusals: the order in slot 0 is the head and this check fails. -/
def refusal (s : State) : Option Reason := if s.part.headOrder.isSome then dispatchCheck s.part.mounted (fields0 s) else none

/-- Ends group 5 of the tests: Lean settles the proofs above a type before it goes on, and each unsettled one holds a
thread. -/
inductive Group5

theorem test_witness_DispatchRefuses :
    (mounted.part.live = true ∧ refusal (posted mounted 8 0 0 0 0 0) = some .badKind
        ∧ refusal (posted mounted 1 0 77 0 0x0900 4077) = some .badLength
        ∧ refusal (posted mounted 2 0 77 0 0x08FF 1) = some .badBuffer
        ∧ refusal (posted mounted 3 0 0xFFFFFFFF 0 0 0) = some .badKey
        ∧ refusal (posted mounted 4 0 2 1 0x0900 8) = some .badRange
        ∧ refusal (posted { mounted with part.mount.state := .failed } 5 0 0 0 0 0) = some .notMounted
        ∧ refusal (posted mounted 7 0 0 0 0x0900 63) = some .badBuffer)
      ∧ (mounted.part.headOrder = none ∧ (posted held 1 0 77 0 0x0900 100).part.headOrder = none)
      ∧ ((posted { mounted with part.record := dropping.part.record } 1 0 77 0 0x0900 100).part.headOrder.isSome = true
          ∧ dropping.part.record ≠ none ∧ (scanning scanOrder).part.scan ≠ none)
      ∧ ((posted mounted 7 0 0 0 0x0900 64).part.headOrder.map (·.2.kind)) = some 7
      ∧ (Mem.wf (posted mounted 7 0 0 0 0x0900 64).part.mem = true ∧ (1 : SlotNo) ≠ 0 ∧ 0x0101 ≠ slotBase 0) := by decide +kernel

theorem test_witness_PutRequests :
    (Dispatchable (posted mounted 1 0 77 0 0x0900 100) 1 ∧ (posted mounted 1 0 77 0 0x0900 100).part.record = none)
      ∧ (Dispatchable (posted mounted 1 1 77 4 0x0900 100) 1 ∧ dirLookup mounted.part.dir 77 = none)
      ∧ (Dispatchable (posted mounted 1 1 10 5 0x0900 0) 1 ∧ (dirLookup mounted.part.dir 10).any (·.sequence == 5) = true)
      ∧ 4096 ≤ (List.replicate 4096 (⟨10, 5, false, ⟨⟨0, 0⟩, 4⟩, 20, 1⟩ : DirEntry)).length := by
  refine ⟨⟨?_, ?_⟩, ⟨?_, ?_⟩, ⟨?_, ?_⟩, ?_⟩ <;> first | (unfold Dispatchable; decide +kernel) | decide +kernel

theorem test_witness_DropRequests :
    (Dispatchable (posted mounted 3 0 10 0 0 0) 3 ∧ (posted mounted 3 0 10 0 0 0).part.record = none)
      ∧ (Dispatchable (posted mounted 3 0 11 0 0 0) 3 ∧ dirLookup mounted.part.dir 11 = none)
      ∧ (Dispatchable (posted mounted 3 1 10 0 0 0) 3 ∧ (dirLookup mounted.part.dir 10).any (!·.gone) = true) := by
  unfold Dispatchable; decide +kernel

theorem test_witness_GetReads :
    (Dispatchable (posted mounted 2 0 10 0 0x0900 20) 2 ∧ (posted mounted 2 0 10 0 0x0900 20).part.record = none
        ∧ (dirLookup mounted.part.dir 10).any (fun x => !x.gone && decide (x.length ≤ 20) && mounted.part.present x.loc.addr.lane) = true)
      ∧ (Dispatchable (posted mounted 2 0 10 0 0x0900 19) 2)
      ∧ (Dispatchable (posted mounted 2 0 11 0 0x8000 0) 2 ∧ dirLookup mounted.part.dir 11 = none)
      ∧ ({ mounted with part.lanes.l0.state := .offline }).part.present 0 = false := by
  unfold Dispatchable; decide +kernel

theorem test_witness_SurveyWrites :
    Dispatchable (posted mounted 7 0 0 0 0x7FC0 64) 7 ∧ (posted mounted 7 0 0 0 0x7FC0 64).part.record = none := by
  unfold Dispatchable; decide +kernel

theorem test_witness_ScanBegins :
    Dispatchable (posted mounted 4 0 11 0xFFFFFFFE 0x0900 8) 4 ∧ (posted mounted 4 0 11 0xFFFFFFFE 0x0900 8).part.scan = none
      ∧ (∀ e ∈ mounted.part.dir, e.key < 11 ∨ (0xFFFFFFFE : Long) < e.key) := by
  unfold Dispatchable; decide +kernel

theorem test_witness_EntryBoundaryActs :
    ((scanning scanOrder).part.live = true ∧ (scanning scanOrder).part.scan = some scanOrder ∧ scanOrder.inHand = none
        ∧ scanOrder.cutPending = false ∧ (scanning scanOrder).part.power.state = .active)
      ∧ dirNext mounted.part.dir 11 99 = none
      ∧ (dirNext mounted.part.dir scanOrder.cursor scanOrder.fields.keyHi).any
          (fun e => !e.gone && mounted.part.present e.loc.addr.lane) = true
      ∧ scanOrder.skip = 0 ∧ scanOrder.fields.mode = 5 ∧ scanOrder.hits < scanOrder.fields.bufLength.toNat / 8
      ∧ scanOrder.fields.bufLength.toNat / 8 ≤ ({ scanOrder with hits := 2 }).hits
      ∧ (let cut : ScanOrder := { scanOrder with cutPending := true }
         let skips : ScanOrder := { scanOrder with skip := 1 }
         let compares : ScanOrder := { scanOrder with fields.mode := 1 }
         (scanning cut).part.scan = some cut ∧ cut.inHand = none ∧ cut.cutPending = true
           ∧ 0 < skips.skip ∧ skips.inHand = none ∧ compares.fields.mode ≠ 5 ∧ compares.skip = 0
           ∧ ({ scanning scanOrder with part.power.state := .hold }).part.live = true)
      ∧ (dirNext [⟨10, 5, true, ⟨⟨0, 0⟩, 4⟩, 0, 1⟩] scanOrder.cursor scanOrder.fields.keyHi).any (·.gone) = true
      ∧ ({ scanning scanOrder with part.lanes.l0.state := .offline }).part.present 0 = false
      ∧ (mounted.part.scan = none ∧ scanReading.part.live = true
          ∧ scanReading.part.scan.any (fun o => o.inHand.isSome) = true)
      ∧ ((discarding.part.lane 0).inFlight = some ⟨.record, .readLine 0 3, 1, true⟩ ∧ (mounted.part.lane 0).inFlight = none) := by
  decide +kernel

theorem test_witness_ReclaimOrderTaken :
    (Dispatchable (posted mounted 5 0 0 0 0 0) 5 ∧ mounted.part.reclaim.attached = none ∧ mounted.part.reclaim.state = .idle
        ∧ 2 ≤ mounted.part.chain.length ∧ mounted.part.saturation = false
        ∧ (lowestEpoch mounted.part.chain).any (fun x => mounted.part.present x.1.lane && x.2.state == .closed) = true)
      ∧ Dispatchable (posted { mounted with part.reclaim.state := .stalled } 5 0 0 0 0 0) 5
      ∧ Dispatchable (posted { mounted with part.reclaim.state := .halted } 5 0 0 0 0 0) 5
      ∧ (Dispatchable (posted walking 5 0 0 0 0 0) 5 ∧ walking.part.reclaim.state = .copying
          ∧ walking.part.reclaim.tail = some ⟨0, 1⟩)
      ∧ ({ mounted with part.segs.l0 := [seg .head 8 4 1 5] }).part.chain.length < 2
      ∧ ({ mounted with part.segs.l0 := [seg .head 8 4 1 5, seg .closed 7 126 126 127] }).part.saturation = true
      ∧ (let far : State := { mounted with part.lanes.l1 := { idleLane with state := .offline }, part.segs.l1 := [seg .closed 3 126 9 127] }
         Dispatchable (posted far 5 0 0 0 0 0) 5 ∧ 2 ≤ far.part.chain.length ∧ far.part.saturation = false
           ∧ (lowestEpoch far.part.chain).any (fun x => !far.part.present x.1.lane) = true)
      ∧ (let low : State := { mounted with part.segs.l0 := [seg .head 6 4 1 5, seg .closed 7 126 9 127] }
         Dispatchable (posted low 5 0 0 0 0 0) 5 ∧ low.part.saturation = false
           ∧ (lowestEpoch low.part.chain).any (fun x => low.part.present x.1.lane && x.2.state != .closed) = true) := by
  unfold Dispatchable; decide +kernel

theorem test_witness_FormatSuspends :
    Dispatchable (posted mounted 6 0 0 0 0 0) 6 ∧ mounted.part.record = none ∧ mounted.part.scan = none
      ∧ mounted.part.reclaim.attached = none ∧ mounted.part.seen.winh = false
      ∧ Dispatchable (posted { mounted with part.seen.winh := true } 6 0 0 0 0 0) 6
      ∧ (Dispatchable (posted walking 6 0 0 0 0 0) 6 ∧ walking.part.reclaim.attached = none ∧ walking.part.seen.winh = false
          ∧ walking.part.reclaim.tail = some ⟨0, 1⟩ ∧ (walking.part.seg ⟨0, 1⟩).state = .reclaiming
          ∧ (walking.part.lane 0).inFlight = some ⟨.reclaim, .readLine 1 4, 1, false⟩)
      ∧ (let late : State := { mounted with part.lanes.l0.inFlight := some ⟨.reclaim, .readLine 1 1, 1, true⟩ }
         Dispatchable (posted late 6 0 0 0 0 0) 6 ∧ (late.part.lane 0).inFlight = some ⟨.reclaim, .readLine 1 1, 1, true⟩) := by
  unfold Dispatchable; decide +kernel

theorem test_witness_FormatTakesTable :
    let s : State := { mounted with part.format := some ⟨0, false, [], 0⟩ }
    let bare : State := { serving with part.format := some ⟨0, false, [], 0⟩ }
    (s.part.live = true ∧ s.part.format = some ⟨0, false, [], 0⟩ ∧ s.part.head.append = none ∧ 4 < (s.part.segs.get 0).length)
      ∧ s.part.formatTables.formatSet ≠ []
      ∧ (bare.part.live = true ∧ bare.part.head.append = none ∧ bare.part.formatTables.formatSet = []) := by decide +kernel

theorem test_witness_OrderGrantAssigns :
    let again : State := { dropping with part.head.orderReq := some { tombstoneReq with sequence := some 3 } }
    let a := Append.fresh (.order tombstoneReq) 9
    (dropping.part.live = true ∧ dropping.part.head.orderReq = some tombstoneReq ∧ dropping.part.mayGrantOrder = true
        ∧ tombstoneReq.sequence = none ∧ dropping.part.seen.winh = false ∧ dropping.part.head.seqCounter ≠ 0xFFFFFFFF
        ∧ dropping.part.headSeg = some (⟨0, 0⟩, seg .head 8 4 1 5) ∧ 4 + 1 = 5 ∧ 4 + tombstoneReq.lines ≤ 126
        ∧ ({ dropping with part.seen.winh := true }).part.mayGrantOrder = true
        ∧ ({ dropping with part.head.seqCounter := 0xFFFFFFFF }).part.mayGrantOrder = true)
      ∧ again.part.mayGrantOrder = true
      ∧ serving.part.headSeg = none
      ∧ (¬ (126 = 5 - 1 ∧ 126 + 1 ≤ 126) ∧ 2 ≤ dropping.part.freeCount ∧ serving.part.freeCount < 2 ∧ serving.part.freeCount < 1)
      ∧ (dropping.part.rotation = some ⟨0, 2⟩ ∧ dropping.part.head.epochCounter ≠ 0xFFFFFFFF)
      ∧ (a.started = false ∧ walking.part.reclaim.state = .copying ∧ mounted.part.reclaim.state ≠ .copying)
      ∧ (let both : State := { copying with part.head.orderReq := some tombstoneReq }
         both.part.mayGrantOrder = true ∧ both.part.mayGrantCopy = false
           ∧ ({ both with part.head.lastGranted := .recordUnit }).part.mayGrantOrder = false ∧ both.part.live = true)
      ∧ (dropping.part.record.isSome = true ∧ mounted.part.record = none) := by
  decide +kernel

theorem test_witness_CopyGrantChecksClaim :
    (copying.part.live = true ∧ copying.part.head.copyReq.isSome = true ∧ copying.part.mayGrantCopy = true
        ∧ (dirLookup copying.part.dir 10).any (fun x => x.loc == ⟨⟨0, 1⟩, 4⟩) = true
        ∧ copying.part.headSeg = some (⟨0, 0⟩, seg .head 8 4 1 5) ∧ 4 + 1 = 5 ∧ 4 + 1 ≤ 126)
      ∧ (dirLookup ({ copying with part.dir := [] }).part.dir 10 = none
          ∧ ({ copying with part.dir := [] }).part.mayGrantCopy = true)
      ∧ (mounted.part.live = true ∧ mounted.part.mayGrantCopy = false)
      ∧ (let full : State := { copying with part.segs.l0 := [seg .head 8 126 1 127, seg .reclaiming 7 126 9 127] }
         full.part.live = true ∧ full.part.mayGrantCopy = true ∧ full.part.head.copyReq.isSome = true
           ∧ full.part.headSeg = some (⟨0, 0⟩, seg .head 8 126 1 127)) := by decide +kernel

theorem test_witness_ChecksAndLineCounts : (4076 : Nat) ≤ 4076 ∧ (1 : Nat) ≤ 16 := by decide

theorem test_witness_StoredHeadersReadBack :
    (1023 < 1024 ∧ (0xFFFFFFFE : Long) ≠ 0 ∧ (0xFFFFFFFE : Long) ≠ 0xFFFFFFFF ∧ 1 ≤ 127 ∧ 127 ≤ 127 ∧ 126 ≤ 127 - 1)
      ∧ (4076 ≤ 4076 ∧ 111 + lineCount 4076 ≤ 127 ∧ 126 + lineCount 0 ≤ 127) := by decide +kernel

theorem test_witness_DirectoryOrder :
    dirSorted mounted.part.dir = true ∧ dirLookup mounted.part.dir 11 = none
      ∧ (dirLookup mounted.part.dir hand.entry.key).isSome = true := by decide +kernel

theorem test_witness_RotationChooses :
    mounted.part.rotation = some ⟨0, 2⟩ ∧ serving.part.rotation = none
      ∧ (mounted.part.headSeg = some (⟨0, 0⟩, seg .head 8 4 1 5) ∧ (⟨0, 0⟩, seg .head 8 4 1 5) ∈ mounted.part.entries)
      ∧ (lowestEpoch mounted.part.chain = some (⟨0, 1⟩, seg .closed 7 126 9 127)
          ∧ highestEpoch mounted.part.chain = some (⟨0, 0⟩, seg .head 8 4 1 5)) := by decide +kernel

end Sys2Proof.Tests
end

section
/-! SUPPORT. The pointer in the word modes and the DATA register's writes to exchange memory (R81, R83). -/

namespace Sys2Proof.Machine

/-! ## The halves of a register value -/

theorem lowByte_eq_extractLsb' (v : Word) : lowByte v = v.extractLsb' 0 8 := by
  simp [lowByte, BitVec.setWidth_eq_extractLsb']

theorem highByte_eq_extractLsb' (v : Word) : highByte v = v.extractLsb' 8 8 := rfl

/-- The value stored by a one-byte DATA write is the low half (R79). -/
theorem leBytes_one (v : Word) : leBytes 1 v.toNat = [v.extractLsb' 0 8] := by
  simp [leBytes, BitVec.extractLsb']

/-- The value stored by a two-byte DATA write is the low half, then the high half (R83). -/
theorem leBytes_two (v : Word) : leBytes 2 v.toNat = [v.extractLsb' 0 8, v.extractLsb' 8 8] := by
  simp [leBytes, BitVec.extractLsb', Nat.shiftRight_eq_div_pow]

/-! ## The pointer in the word modes (R81) -/

/-- Bits 14 to 1 of an address are all but bit 0. -/
theorem evenMask_getLsbD {i : Nat} (hi : i < 15) : (0x7FFE : Addr).getLsbD i = decide (1 ≤ i) := by
  have h : ∀ j : Fin 15, (0x7FFE : Addr).getLsbD j = decide (1 ≤ j.val) := by decide
  exact h ⟨i, hi⟩

/-- Bit 0 taken as 0. -/
theorem evenPart_eq_append (x : Addr) : x &&& 0x7FFE = x.extractLsb' 1 14 ++ 0#1 := by
  refine BitVec.eq_of_getLsbD_eq fun i hi => ?_
  rw [BitVec.getLsbD_and, evenMask_getLsbD hi, BitVec.getLsbD_append]
  rcases i with _ | i
  · simp
  · simp [Nat.add_comm 1 i, show i < 14 by omega]

/-- Bit 0 of one address with bits 14 to 1 of another. -/
theorem evenPart_or_bit_eq_append (x y : Addr) :
    (x &&& 0x7FFE) ||| (y &&& 1) = x.extractLsb' 1 14 ++ y.extractLsb' 0 1 := by
  refine BitVec.eq_of_getLsbD_eq fun i hi => ?_
  rw [BitVec.getLsbD_or, BitVec.getLsbD_and, evenMask_getLsbD hi, BitVec.getLsbD_append]
  rcases i with _ | i
  · simp
  · simp [Nat.add_comm 1 i, show i < 14 by omega]

theorem evenPart_eq_iff (x y : Addr) : x &&& 0x7FFE = y &&& 0x7FFE ↔ x.extractLsb' 1 14 = y.extractLsb' 1 14 := by
  rw [evenPart_eq_append, evenPart_eq_append]
  exact BitVec.append_left_inj 0#1

theorem evenPart_toNat (x : Addr) : (x &&& 0x7FFE).toNat = x.toNat / 2 * 2 := by
  have hx := x.isLt
  rw [evenPart_eq_append, BitVec.toNat_append, BitVec.extractLsb'_toNat]
  simp [Nat.shiftRight_eq_div_pow, Nat.shiftLeft_eq]
  omega

theorem Part.wordMode_iff (p : Part) : p.wordMode = true ↔ p.busMode ≠ .byte8 := by simp [Part.wordMode]

theorem Part.dataAddr_word {p : Part} (h : p.busMode ≠ .byte8) : p.dataAddr = p.bus.pointer.toNat / 2 * 2 := by
  rw [Part.dataAddr, if_pos (p.wordMode_iff.2 h), evenPart_toNat]

theorem Part.dataAddr_byte {p : Part} (h : p.busMode = .byte8) : p.dataAddr = p.bus.pointer.toNat := by
  simp [Part.dataAddr, Part.wordMode, h]

theorem Part.nextPointer_word {p : Part} (h : p.busMode ≠ .byte8) :
    p.nextPointer =
      if p.bus.pointer.extractLsb' 1 14 = p.bus.winEnd.extractLsb' 1 14 then
        p.bus.winStart.extractLsb' 1 14 ++ p.bus.pointer.extractLsb' 0 1
      else p.bus.pointer + 2 := by
  simp only [Part.nextPointer, p.wordMode_iff.2 h, if_true, evenPart_eq_iff, evenPart_or_bit_eq_append]

theorem Part.nextPointer_byte {p : Part} (h : p.busMode = .byte8) :
    p.nextPointer = if p.bus.pointer = p.bus.winEnd then p.bus.winStart else p.bus.pointer + 1 := by
  simp [Part.nextPointer, Part.wordMode, h]

/-! ## A write of DATA (R83) -/

/-- A write of DATA changes exchange memory and the pointer alone. -/
theorem Part.writeData_eq (p : Part) (v : Word) :
    p.writeData v = { p with mem := (p.writeData v).mem, bus.pointer := p.nextPointer } := rfl

theorem Part.writeData_mem_word {p : Part} (v : Word) (h : p.busMode ≠ .byte8) :
    (p.writeData v).mem = Mem.writeBytes p.mem (p.bus.pointer.toNat / 2 * 2) [v.extractLsb' 0 8, v.extractLsb' 8 8] := by
  rw [Part.writeData, Part.dataAddr_word h, if_pos (p.wordMode_iff.2 h), leBytes_two]
  rfl

theorem Part.writeData_mem_byte {p : Part} (v : Word) (h : p.busMode = .byte8) :
    (p.writeData v).mem = Mem.writeBytes p.mem p.bus.pointer.toNat [v.extractLsb' 0 8] := by
  have hw : p.wordMode = false := by simp [Part.wordMode, h]
  rw [Part.writeData, Part.dataAddr_byte h, hw, if_neg Bool.false_ne_true, leBytes_one]
  rfl

theorem exec_dataWrite_word {s : State} {d v : Word} (h : s.part.busMode ≠ .byte8) (hv : s.part.writeValue .data d = some v) :
    exec (.dataWrite d) s = .next { s with part := s.part.writeData v } := by
  show execDataWrite d s = _
  simp [execDataWrite, run_next, Part.writeAccess, h, hv]

theorem exec_dataWrite_byte {s : State} (d : Word) (hs : s.part.served = true) (h : s.part.busMode = .byte8) :
    exec (.dataWrite d) s = .next { s with part := s.part.writeData d } := by
  show execDataWrite d s = _
  simp [execDataWrite, run_next, hs, h]

/-- Settles O14: the store at the pointer is read back from `Mem.writeBytes`, once for each width of the access. -/
theorem dataWrites : Obligations.DataWrites := by
  refine ⟨fun s d v h hv hwf => ?_, fun s d hs h hwf => ?_⟩
  · have hmem := Part.writeData_mem_word v h
    have hin : s.part.bus.pointer.toNat / 2 * 2 + 2 ≤ memSize := by
      have := s.part.bus.pointer.isLt
      simp only [memSize]; omega
    refine ⟨_, exec_dataWrite_word h hv, ?_, ?_, fun a h0 h1 => ?_, ?_⟩
    · simp only [State.byte, hmem]
      exact Mem.read_writeBytes_same _ _ _ 0 hwf hin (by simp)
    · simp only [State.byte, hmem]
      exact Mem.read_writeBytes_same _ _ _ 1 hwf hin (by simp)
    · simp only [State.byte, hmem]
      exact Mem.read_writeBytes_other _ _ _ _ hin (by simp; omega)
    · rw [← Part.nextPointer_word h]; rfl
  · have hmem := Part.writeData_mem_byte d h
    have hin : s.part.bus.pointer.toNat + 1 ≤ memSize := s.part.bus.pointer.isLt
    refine ⟨_, exec_dataWrite_byte d hs h, ?_, fun a h0 => ?_, ?_⟩
    · simp only [State.byte, hmem]
      exact Mem.read_writeBytes_same _ _ _ 0 hwf hin (by simp)
    · simp only [State.byte, hmem]
      exact Mem.read_writeBytes_other _ _ _ _ hin (by simp; omega)
    · rw [← Part.nextPointer_byte h]; rfl

end Sys2Proof.Machine
end

section
/-! SUPPORT. The NOTICE register (R89 to R91): what a write does, what the flags and ATTN show, and that a clear leaves the mask
(R90). -/

namespace Sys2Proof.Machine

/-! ## The bus port but for the sticky flags

Outside the host's own accesses the part changes nothing in the bus port but the sticky flags it raises; below, that is said once
for each operation a clear comes to. -/

/-- The bus port with every sticky flag taken as 0. -/
def Bus.withoutSticky (b : Bus) : Bus := { b with sticky := 0 }

theorem Bus.mask_eq_of_withoutSticky {a b : Bus} (h : a.withoutSticky = b.withoutSticky) : a.mask = b.mask :=
  (congrArg Bus.mask h :)

@[simp] theorem Part.raise_withoutSticky (p : Part) (n : Sticky) :
    (p.raise n).bus.withoutSticky = p.bus.withoutSticky := rfl

/-! ### The reclaim unit (R149 to R156) -/

@[simp] theorem Part.toReclaim_bus (p : Part) (st : ReclaimState) : (p.toReclaim st).bus = p.bus := by
  unfold Part.toReclaim
  split <;> rfl

@[simp] theorem Part.dropWalk_bus (p : Part) : p.dropWalk.bus = p.bus := by
  simp only [Part.dropWalk]
  split <;> simp

@[simp] theorem Part.endHaltedOrder_bus (p : Part) (tail : Option SegAddr) : (p.endHaltedOrder tail).bus = p.bus := by
  unfold Part.endHaltedOrder
  split
  · rfl
  · split
    · simp
    · rfl

@[simp] theorem Part.haltReclaim_withoutSticky (p : Part) : p.haltReclaim.bus.withoutSticky = p.bus.withoutSticky := by
  simp [Part.haltReclaim]

@[simp] theorem Part.takeTail_bus (p : Part) (a : SegAddr) (origin : Origin) : (p.takeTail a origin).bus = p.bus := rfl

@[simp] theorem Part.endWalk_bus (p : Part) (t : SegAddr) : (p.endWalk t).bus = p.bus := rfl

@[simp] theorem Part.settleDecision_withoutSticky (p : Part) (d : ChainDecision) :
    (p.settleDecision d).1.bus.withoutSticky = p.bus.withoutSticky := by
  cases d <;> simp [Part.settleDecision]

@[simp] theorem Part.afterWalk_withoutSticky (p : Part) : p.afterWalk.1.bus.withoutSticky = p.bus.withoutSticky := by
  unfold Part.afterWalk
  split
  · split <;> simp
  · simp only
    split
    · split <;> simp
    · simp

@[simp] theorem Part.walkFrom_withoutSticky (n : Nat) (p : Part) :
    (p.walkFrom n).bus.withoutSticky = p.bus.withoutSticky := by
  induction n generalizing p with
  | zero => rfl
  | succ n ih =>
    rw [Part.walkFrom]
    split
    · rfl
    · next t _ =>
      have hnext := (p.endWalk t).afterWalk_withoutSticky
      split
      · simp [Part.readTail]
      · split
        · next q hq => simpa [hq] using hnext
        · next q a hq => simpa [hq, ih] using hnext

@[simp] theorem Part.walk_withoutSticky (p : Part) : p.walk.bus.withoutSticky = p.bus.withoutSticky :=
  p.walkFrom_withoutSticky _

@[simp] theorem Part.evaluate_withoutSticky (p : Part) (origin : Origin) :
    (p.evaluate origin).bus.withoutSticky = p.bus.withoutSticky := by
  have hsettled := p.settleDecision_withoutSticky p.decideChain
  unfold Part.evaluate
  split
  · next q hq => simpa [hq] using hsettled
  · next q a hq => simpa [hq] using hsettled

@[simp] theorem Part.actRelease_withoutSticky (p : Part) : p.actRelease.bus.withoutSticky = p.bus.withoutSticky := by
  unfold Part.actRelease
  split <;> simp

@[simp] theorem Part.reclaimReturns_withoutSticky (p : Part) :
    p.reclaimReturns.bus.withoutSticky = p.bus.withoutSticky := by
  unfold Part.reclaimReturns
  cases p.reclaim.state with
  | idle => simp only; split <;> simp
  | stalled =>
    simp only
    split
    · simp
    · split <;> simp
  | copying => rfl
  | halted => rfl

@[simp] theorem Part.submitCopy_bus (p : Part) : p.submitCopy.bus = p.bus := by
  unfold Part.submitCopy
  split <;> rfl

@[simp] theorem Part.afterRise_bus (p : Part) : p.afterRise.bus = p.bus := by
  simp only [Part.afterRise]
  split <;> simp

/-! ### The scan unit (R138 to R147) -/

@[simp] theorem Part.endScan_bus (p : Part) (o : ScanOrder) (r : Result) (k : Long) : (p.endScan o r k).bus = p.bus := by
  simp [Part.endScan]

@[simp] theorem Part.scanHit_bus (p : Part) (o : ScanOrder) (key sequence : Long) :
    (p.scanHit o key sequence).bus = p.bus := by
  unfold Part.scanHit
  split <;> simp

@[simp] theorem Part.readScan_bus (p : Part) (o : ScanOrder) (h : ScanHand) : (p.readScan o h).bus = p.bus := by
  simp only [Part.readScan]
  split <;> simp

@[simp] theorem Part.scanSelect_bus (p : Part) (o : ScanOrder) (e : DirEntry) : (p.scanSelect o e).bus = p.bus := by
  simp only [Part.scanSelect]
  split <;> simp

@[simp] theorem Part.scanBoundary_bus (p : Part) : p.scanBoundary.bus = p.bus := by
  unfold Part.scanBoundary
  cases p.scan with
  | none => rfl
  | some o =>
    cases hnext : dirNext p.dir o.cursor o.fields.keyHi with
    | none => simp only [hnext]; split_ifs <;> simp
    | some e => simp only [hnext]; split_ifs <;> simp

/-! ### Setting back and the power states (R135, R177 to R182) -/

@[simp] theorem Part.withdrawStarting_bus (p : Part) (s : SegAddr) (step : AppendStep) :
    (p.withdrawStarting s step).bus = p.bus := by
  cases step <;> simp [Part.withdrawStarting]

@[simp] theorem Part.setBackNow_power_bus (p : Part) (a : Append) : (p.setBackNow .power a).bus = p.bus := by
  unfold Part.setBackNow
  split
  · rfl
  · split <;> rfl

@[simp] theorem Part.requestSetBack_power_bus (p : Part) : (p.requestSetBack .power).bus = p.bus := by
  unfold Part.requestSetBack
  split
  · rfl
  · next a _ =>
    split
    · rfl
    · split
      · rfl
      · split
        · cases a.step <;> simp
        · simp

@[simp] theorem Part.enterPark_bus (p : Part) : p.enterPark.bus = p.bus := by simp [Part.enterPark]

@[simp] theorem Part.noteQuiet_withoutSticky (p : Part) : p.noteQuiet.bus.withoutSticky = p.bus.withoutSticky := by
  simp only [Part.noteQuiet]
  split <;> simp

@[simp] theorem Part.watchQuiet_withoutSticky (p : Part) : p.watchQuiet.bus.withoutSticky = p.bus.withoutSticky := by
  simp only [Part.watchQuiet]
  split_ifs <;> simp

@[simp] theorem Part.enterContained_withoutSticky (p : Part) (st : PowerState) :
    (p.enterContained st).bus.withoutSticky = p.bus.withoutSticky := by
  simp [Part.enterContained]

@[simp] theorem Part.enterActive_withoutSticky (p : Part) : p.enterActive.bus.withoutSticky = p.bus.withoutSticky := by
  simp [Part.enterActive]

/-! ### The clear (R185) -/

@[simp] theorem Part.afterClear_withoutSticky (p : Part) : p.afterClear.bus.withoutSticky = p.bus.withoutSticky := by
  unfold Part.afterClear
  cases p.power.state with
  | active => rfl
  | hold => simp only; split_ifs <;> simp
  | brace => simp only; split_ifs <;> simp
  | park => rfl
  | stopped => rfl

theorem Part.abandon_bus (slots : List SlotNo) (p : Part) :
    (slots.foldl (fun q n => q.writePhase n abandonedByte) p).bus = p.bus := by
  induction slots generalizing p with
  | nil => rfl
  | cons n rest ih => simp [ih]

@[simp] theorem Part.clearOrders_bus (p : Part) : p.clearOrders.bus = p.bus := p.abandon_bus p.heldSlots

@[simp] theorem Part.clearRecord_bus (p : Part) : p.clearRecord.bus = p.bus := by
  simp only [Part.clearRecord]
  split <;> simp

@[simp] theorem Part.clearScan_bus (p : Part) : p.clearScan.bus = p.bus := by
  simp only [Part.clearScan]
  split <;> simp

@[simp] theorem Part.clearReclaim_bus (p : Part) : p.clearReclaim.bus = p.bus := by simp [Part.clearReclaim]

/-- A clear changes nothing in the bus port but the sticky flags. -/
theorem Part.clearNow_withoutSticky (p : Part) : p.clearNow.bus.withoutSticky = p.bus.withoutSticky := by
  simp only [Part.clearNow, Part.afterClear_withoutSticky]
  simp [Bus.withoutSticky]

/-! ## A write of NOTICE (R90) -/

theorem exec_noticeWrite {s : State} {d v : Word} (hv : s.part.writeValue .notice d = some v) :
    exec (.noticeWrite d) s = .next { s with part := s.part.writeNotice v } := by
  show execNoticeWrite d s = _
  simp [execNoticeWrite, run_next, Part.writeAccess, hv]

theorem Part.writeNotice_sticky (p : Part) (v : Word) : (p.writeNotice v).bus.sticky = p.bus.sticky &&& ~~~(lowByte v) := rfl

theorem Part.writeNotice_sticky_getLsbD (p : Part) (v : Word) {i : Nat} (hi : i < 8) :
    (p.writeNotice v).bus.sticky.getLsbD i = (p.bus.sticky.getLsbD i && !v.getLsbD i) := by
  simp [Part.writeNotice_sticky, lowByte, hi]

/-- A byte holds a sticky flag's bit or does not. -/
theorem Sticky.and_bit (n : Sticky) (b : Byte) : b &&& n.bit = 0 ∨ b &&& n.bit = n.bit := by
  have h : ∀ b : Byte, b &&& n.bit = 0 ∨ b &&& n.bit = n.bit := by cases n <;> decide
  exact h b

/-- A raise after a write of NOTICE stands. -/
theorem Part.raise_writeNotice_set (p : Part) (n : Sticky) (v : Word) :
    ((p.writeNotice v).raise n).bus.sticky &&& n.bit = n.bit := by
  rw [Part.raise_sticky]
  ext i hi
  simp +contextual

/-- A write of NOTICE that clears a flag, after its raise, stands. -/
theorem Part.writeNotice_raise_cleared (p : Part) (n : Sticky) (v : Word) (h : lowByte v &&& n.bit = n.bit) :
    ((p.raise n).writeNotice v).bus.sticky &&& n.bit = 0 := by
  rw [Part.writeNotice_sticky, ← h]
  ext i hi
  simp +contextual

/-- A write of NOTICE and the raise of a flag it does not clear may come in either order. -/
theorem Part.raise_writeNotice_comm (p : Part) (n : Sticky) (v : Word) (h : lowByte v &&& n.bit = 0) :
    (p.writeNotice v).raise n = (p.raise n).writeNotice v := by
  have hsticky : p.bus.sticky &&& ~~~(lowByte v) ||| n.bit = (p.bus.sticky ||| n.bit) &&& ~~~(lowByte v) := by
    ext i hi
    have hdisjoint : (lowByte v)[i] = true → n.bit[i] = false := by simpa using congrArg (·[i]) h
    cases hb : n.bit[i] <;> simp_all
  simp only [Part.raise, Part.writeNotice, hsticky]

/-! ## The flags and ATTN (R89, R91) -/

theorem Part.noticeFlags_done (p : Part) :
    p.noticeFlags.getLsbD 0 = (p.bus.sticky.getLsbD 0 || !p.orders.doneList.isEmpty) := by
  unfold Part.noticeFlags
  cases p.orders.doneList <;> simp

theorem Part.noticeFlags_sticky (p : Part) {i : Nat} (h1 : 1 ≤ i) :
    p.noticeFlags.getLsbD i = p.bus.sticky.getLsbD i := by
  have h0 : i ≠ 0 := by omega
  unfold Part.noticeFlags
  cases p.orders.doneList <;> simp [h0]

/-- ATTN is asserted exactly while a set flag has its mask bit set (R91). -/
theorem Part.attn_iff (p : Part) :
    p.attn = true ↔ ∃ i, i < 8 ∧ p.noticeFlags.getLsbD i = true ∧ p.bus.mask.getLsbD i = true := by
  rw [Part.attn, bne_iff_ne, Ne, BitVec.eq_of_getLsbD_eq_iff]
  simp

/-- The DONE flag is never held as a sticky flag, so its bit of the sticky flags is 0 (R89). -/
theorem sticky_done_false {b : Byte} (h : b &&& 1 = 0) : b.getLsbD 0 = false := by
  have hbit := congrArg (·.getLsbD 0) h
  simpa using hbit

/-- Settles O20: a write of NOTICE bit by bit, the two orders of a write and a raise by whether the write holds the flag's
bit, and the mask across a clear from what each operation of the clear leaves of the bus port. -/
theorem noticesAndAttn : Obligations.NoticesAndAttn := by
  refine ⟨⟨fun s d v hv => ?_, fun p => rfl, fun p n v => ?_, fun p d hs hm => ?_, fun st => rfl, fun p => ?_⟩,
    fun p hdone => ⟨?_, fun i h1 _ => p.noticeFlags_sticky h1, p.attn_iff⟩⟩
  · refine ⟨_, exec_noticeWrite hv, rfl, fun i hi => s.part.writeNotice_sticky_getLsbD v hi, highByte_eq_extractLsb' v,
      fun h0 => ?_⟩
    have horders : (s.part.writeNotice v).orders = s.part.orders := rfl
    rw [Part.noticeFlags_done, Part.noticeFlags_done, Part.writeNotice_sticky_getLsbD _ _ (by omega), h0, Bool.false_and, horders]
  · rcases n.and_bit (lowByte v) with h | h
    · exact .inl (p.raise_writeNotice_comm n v h)
    · exact .inr ⟨p.raise_writeNotice_set n v, p.writeNotice_raise_cleared n v h⟩
  · simp [Part.writeValue, hs, hm, wordOf, lowByte_eq_extractLsb']
  · exact Bus.mask_eq_of_withoutSticky p.clearNow_withoutSticky
  · rw [Part.noticeFlags_done, sticky_done_false hdone]
    simp

end Sys2Proof.Machine
end

section
/-! SUPPORT. What an act of the reclaim unit leaves of the order block and the scan unit (R150 to R156): the attached order stays
as it is, or it ends and is completed. -/

namespace Sys2Proof.Machine

/-- The slot of the RECLAIM order attached to the reclaim unit. -/
def Part.attachedSlot (p : Part) : Option SlotNo := p.reclaim.attached.map (·.slot)

/-- The order block once a slot's order has been completed (R108). -/
def Orders.completed (o : Orders) (n : SlotNo) : Orders :=
  { o with slots := o.slots.set n.val ⟨true, .done⟩ n.isLt, doneList := o.doneList ++ [n] }

theorem Part.complete_orders (p : Part) (n : SlotNo) (r : Result) : (p.complete n r).orders = p.orders.completed n := rfl

/-- From `p` to `q` the scan unit and the order block are as they were, but that the attached order may have been completed. -/
inductive Part.EndsAttachedAtMost (p q : Part) : Prop
  | kept (hscan : q.scan = p.scan) (hattached : q.attachedSlot = p.attachedSlot) (horders : q.orders = p.orders)
  | ended (n : SlotNo) (hscan : q.scan = p.scan) (hheld : p.attachedSlot = some n) (hfree : q.attachedSlot = none)
      (horders : q.orders = p.orders.completed n)

namespace Part.EndsAttachedAtMost

theorem refl (p : Part) : p.EndsAttachedAtMost p := .kept rfl rfl rfl

theorem trans {p q r : Part} (hpq : p.EndsAttachedAtMost q) (hqr : q.EndsAttachedAtMost r) : p.EndsAttachedAtMost r := by
  cases hpq with
  | kept hscan hattached horders =>
    cases hqr with
    | kept hscan' hattached' horders' =>
      exact .kept (hscan'.trans hscan) (hattached'.trans hattached) (horders'.trans horders)
    | ended n hscan' hheld hfree horders' =>
      exact .ended n (hscan'.trans hscan) (hattached ▸ hheld) hfree (horders ▸ horders')
  | ended n hscan hheld hfree horders =>
    cases hqr with
    | kept hscan' hattached' horders' =>
      exact .ended n (hscan'.trans hscan) hheld (hattached'.trans hfree) (horders'.trans horders)
    | ended m _ hheld' _ _ => exact absurd (hfree.symm.trans hheld') (by simp)

theorem scan_eq {p q : Part} (h : p.EndsAttachedAtMost q) : q.scan = p.scan := by
  cases h with
  | kept hscan => exact hscan
  | ended _ hscan => exact hscan

/-- With no order attached the order block is left as it was. -/
theorem orders_eq {p q : Part} (h : p.EndsAttachedAtMost q) (hfree : p.attachedSlot = none) : q.orders = p.orders := by
  cases h with
  | kept _ _ horders => exact horders
  | ended n _ hheld => exact absurd (hfree.symm.trans hheld) (by simp)

/-- Posting does not see the act: a completion changes the slot table and the done list alone. -/
theorem posting_eq {p q : Part} (h : p.EndsAttachedAtMost q) :
    q.orders.postQueue = p.orders.postQueue ∧ q.orders.lastPost = p.orders.lastPost
      ∧ q.orders.intake = p.orders.intake := by
  cases h with
  | kept _ _ horders => rw [horders]; exact ⟨rfl, rfl, rfl⟩
  | ended n _ _ _ horders => rw [horders]; exact ⟨rfl, rfl, rfl⟩

end Part.EndsAttachedAtMost

/-! ## The acts one by one -/

theorem Part.toReclaim_endsAttached (p : Part) (st : ReclaimState) : p.EndsAttachedAtMost (p.toReclaim st) := by
  unfold Part.toReclaim
  split <;> exact .kept rfl rfl rfl

theorem Part.dropWalk_endsAttached (p : Part) : p.EndsAttachedAtMost p.dropWalk := by
  simp only [Part.dropWalk]
  split <;> exact .kept rfl rfl rfl

theorem Part.endHaltedOrder_endsAttached (p : Part) (tail : Option SegAddr) :
    p.EndsAttachedAtMost (p.endHaltedOrder tail) := by
  unfold Part.endHaltedOrder
  split
  · exact .refl p
  · next a ha =>
    split
    · exact .ended a.slot (by simp) (by simp [Part.attachedSlot, ha]) (by simp [Part.attachedSlot])
        (Part.complete_orders _ a.slot _)
    · exact .refl p

theorem Part.haltReclaim_endsAttached (p : Part) : p.EndsAttachedAtMost p.haltReclaim :=
  have hraise : p.EndsAttachedAtMost ((p.dropWalk.toReclaim .halted).raise .reclaimHalted) :=
    (p.dropWalk_endsAttached.trans (p.dropWalk.toReclaim_endsAttached .halted)).trans (.kept rfl rfl rfl)
  hraise.trans (Part.endHaltedOrder_endsAttached _ _)

theorem Part.takeTail_endsAttached (p : Part) (a : SegAddr) (origin : Origin) :
    p.EndsAttachedAtMost (p.takeTail a origin) := .kept rfl rfl rfl

/-- A walk end records the copied lines in the attached order and keeps it attached (R155). -/
theorem Part.endWalk_endsAttached (p : Part) (t : SegAddr) : p.EndsAttachedAtMost (p.endWalk t) := by
  refine .kept rfl ?_ rfl
  simp only [Part.attachedSlot, Part.endWalk, Part.modSeg_frame, Option.map_map]
  congr 1
  funext a
  simp only [Function.comp]
  split <;> rfl

theorem Part.settleDecision_endsAttached (p : Part) (d : ChainDecision) : p.EndsAttachedAtMost (p.settleDecision d).1 := by
  cases d with
  | idle => exact p.toReclaim_endsAttached .idle
  | stalled => exact (p.toReclaim_endsAttached .stalled).trans (.kept rfl rfl rfl)
  | halt => exact p.haltReclaim_endsAttached
  | take a => exact .refl p

theorem Part.afterWalk_endsAttached (p : Part) : p.EndsAttachedAtMost p.afterWalk.1 := by
  have hidle := p.toReclaim_endsAttached .idle
  unfold Part.afterWalk
  split
  · split
    · exact p.settleDecision_endsAttached _
    · exact hidle
  · simp only
    split
    · split
      · exact hidle.trans (Part.settleDecision_endsAttached _ _)
      · exact hidle.trans (.kept rfl rfl rfl)
    · exact hidle

theorem Part.walkFrom_endsAttached (n : Nat) (p : Part) : p.EndsAttachedAtMost (p.walkFrom n) := by
  induction n generalizing p with
  | zero => exact .refl p
  | succ n ih =>
    rw [Part.walkFrom]
    split
    · exact .refl p
    · next t _ =>
      have hnext := (p.endWalk_endsAttached t).trans (p.endWalk t).afterWalk_endsAttached
      split
      · exact .kept rfl rfl rfl
      · split
        · next q hq => rwa [hq] at hnext
        · next q a hq =>
          rw [hq] at hnext
          exact (hnext.trans (q.takeTail_endsAttached a .trigger)).trans (ih _)

theorem Part.evaluate_endsAttached (p : Part) (origin : Origin) : p.EndsAttachedAtMost (p.evaluate origin) := by
  have hsettled := p.settleDecision_endsAttached p.decideChain
  unfold Part.evaluate
  split
  · next q hq => rwa [hq] at hsettled
  · next q a hq =>
    rw [hq] at hsettled
    exact (hsettled.trans (q.takeTail_endsAttached a origin)).trans (Part.walkFrom_endsAttached _ _)

theorem Part.trigger_endsAttached (p : Part) : p.EndsAttachedAtMost p.trigger := by
  unfold Part.trigger
  split
  · split
    · exact p.evaluate_endsAttached .trigger
    · exact p.evaluate_endsAttached .trigger
    · exact .refl p
    · exact .refl p
  · exact .kept rfl rfl rfl

theorem Part.compareLow_endsAttached (p : Part) : p.EndsAttachedAtMost p.compareLow := by
  unfold Part.compareLow
  split
  · exact p.trigger_endsAttached
  · exact .refl p

theorem Part.actRelease_endsAttached (p : Part) : p.EndsAttachedAtMost p.actRelease := by
  unfold Part.actRelease
  split
  · exact p.evaluate_endsAttached .trigger
  · exact p.toReclaim_endsAttached .idle

theorem Part.reclaimReturns_endsAttached (p : Part) : p.EndsAttachedAtMost p.reclaimReturns := by
  unfold Part.reclaimReturns
  cases p.reclaim.state with
  | idle =>
    simp only
    split
    · refine .trans ?_ (Part.evaluate_endsAttached _ .trigger)
      exact .kept rfl rfl rfl
    · exact .refl p
  | stalled =>
    simp only
    split
    · refine .trans ?_ (Part.actRelease_endsAttached _)
      exact .kept rfl rfl rfl
    · split
      · refine .trans ?_ (Part.evaluate_endsAttached _ .trigger)
        exact .kept rfl rfl rfl
      · exact .refl p
  | copying => exact .kept rfl rfl rfl
  | halted => exact .kept rfl rfl rfl

end Sys2Proof.Machine
end

section
/-! SUPPORT. POST (R98, R99, R102): the four decisions of a post, and what a configuration word leaves of posting. -/

namespace Sys2Proof.Machine

theorem exec_post {s : State} {d v : Word} (hv : s.part.writeValue .post d = some v) :
    exec (.post d) s = .next { s with part := s.part.takePost v } := by
  show execPost d s = _
  simp [execPost, run_next, Part.writeAccess, hv]

/-! ## A post once intake has ended (R98) -/

theorem Part.takePost_ended {p : Part} (v : Word) (h : p.orders.intake = .ended) : p.takePost v = p.postSlot v := if_pos h

/-- A refused post records its outcome and raises POST_REJECT, and changes nothing else (R99). -/
theorem Part.refusePost_eq (p : Part) (o : PostOutcome) :
    p.refusePost o = { p with orders.lastPost := o, bus.sticky := p.bus.sticky ||| 0x02 } := rfl

theorem Part.postSlot_badSlot (p : Part) {v : Word} (h : 32 ≤ v.toNat) : p.postSlot v = p.refusePost .badSlot :=
  dif_neg (Nat.not_lt.2 h)

/-- A post of a slot number: HELD before FULL before acceptance. -/
theorem Part.postSlot_ofNat (p : Part) (n : SlotNo) :
    p.postSlot (BitVec.ofNat 16 n.val) =
      if (p.slot n).held then p.refusePost .held
      else if 16 ≤ p.orders.postQueue.length then p.refusePost .full
      else p.acceptPost n := by
  have hn : (BitVec.ofNat 16 n.val).toNat = n.val := by
    have := n.isLt
    simp only [BitVec.toNat_ofNat]
    omega
  simp only [Part.postSlot, hn, n.isLt, dif_pos, queueCapacity]

/-- An accepted post changes exchange memory, the slot table, the post queue and the last post outcome alone. -/
theorem Part.acceptPost_eq (p : Part) (n : SlotNo) :
    p.acceptPost n = { p with
      mem := Mem.writeBytes p.mem (slotBase n) [1], orders.slots := p.orders.slots.set n.val ⟨true, .queued⟩ n.isLt,
      orders.postQueue := p.orders.postQueue ++ [n], orders.lastPost := .accepted } := rfl

theorem slotBase_lt_memSize (n : SlotNo) : slotBase n < memSize := by
  have := n.isLt
  simp only [slotBase, memSize]
  omega

/-- The phase byte of an accepted slot reads 1. -/
theorem Part.acceptPost_phase {p : Part} (n : SlotNo) (hwf : Mem.wf p.mem = true) :
    Mem.read (p.acceptPost n).mem (slotBase n) = 1 :=
  Mem.read_writeBytes_same [1] p.mem (slotBase n) 0 hwf (slotBase_lt_memSize n) (by simp)

/-- Accepting a post writes the slot's phase byte alone. -/
theorem Part.acceptPost_byte_other (p : Part) (n : SlotNo) {a : Nat} (h : a ≠ slotBase n) :
    Mem.read (p.acceptPost n).mem a = Mem.read p.mem a :=
  Mem.read_writeBytes_other [1] p.mem (slotBase n) a (slotBase_lt_memSize n) (by simp only [List.length_singleton]; omega)

/-! ## A configuration word (R102) -/

/-- What the next POST write gives after a configuration word (R102). -/
def Intake.next : Intake → Intake
  | .low => .high
  | .high => .post
  | .post => .ended
  | .ended => .ended

@[simp] theorem Part.noteAdjusted_orders (p : Part) (v w : Nat) : (p.noteAdjusted v w).orders = p.orders := by
  unfold Part.noteAdjusted
  split <;> rfl

/-- A configuration word is recorded as CONFIG_TAKEN, moves intake on and leaves the post queue. -/
theorem Part.takeWord_posting {p : Part} (v : Word) (h : p.orders.intake ≠ .ended) :
    (p.takeWord v).orders.postQueue = p.orders.postQueue ∧ (p.takeWord v).orders.lastPost = .configTaken
      ∧ (p.takeWord v).orders.intake = p.orders.intake.next := by
  unfold Part.takeWord
  cases hi : p.orders.intake with
  | low => simp [Intake.next]
  | high => simp [Intake.next]
  | post => simp [Intake.next]
  | ended => exact absurd hi h

/-- The low-water comparison of the third word does not reach posting. -/
theorem Part.takeConfig_posting (p : Part) (v : Word) :
    (p.takeConfig v).orders.postQueue = (p.takeWord v).orders.postQueue
      ∧ (p.takeConfig v).orders.lastPost = (p.takeWord v).orders.lastPost
      ∧ (p.takeConfig v).orders.intake = (p.takeWord v).orders.intake := by
  simp only [Part.takeConfig]
  split
  · simpa using (p.takeWord v).compareLow_endsAttached.posting_eq
  · exact ⟨rfl, rfl, rfl⟩

theorem Part.takePost_config {p : Part} (v : Word) (h : p.orders.intake ≠ .ended) :
    (p.takePost v).orders.postQueue = p.orders.postQueue ∧ (p.takePost v).orders.lastPost = .configTaken
      ∧ (p.takePost v).orders.intake = p.orders.intake.next := by
  have hword := Part.takeWord_posting v h
  rw [Part.takePost, if_neg h]
  simpa only [p.takeConfig_posting v] using hword

/-- Settles O17: `Part.postSlot` by its decisions in their order, and the configuration word by what it and its low-water
comparison leave of posting. -/
theorem postDecides : Obligations.PostDecides := by
  intro s d v hv hwf
  refine ⟨fun hended => ⟨fun hbad => ?_, fun n hn => ⟨fun hheld => ?_, fun hheld hfull => ?_, fun hheld hroom => ?_⟩⟩,
    fun hintake => ?_⟩
  · rw [exec_post hv, Part.takePost_ended v hended, Part.postSlot_badSlot _ hbad, Part.refusePost_eq]
  · rw [exec_post hv, Part.takePost_ended v hended, hn, Part.postSlot_ofNat, if_pos hheld, Part.refusePost_eq]
  · rw [exec_post hv, Part.takePost_ended v hended, hn, Part.postSlot_ofNat, if_neg (by simp [hheld]), if_pos hfull,
      Part.refusePost_eq]
  · have haccept : s.part.takePost v = s.part.acceptPost n := by
      rw [Part.takePost_ended v hended, hn, Part.postSlot_ofNat, if_neg (by simp [hheld]), if_neg (Nat.not_le.2 hroom)]
    refine ⟨{ s with part := s.part.acceptPost n }, by rw [exec_post hv, haccept], s.part.slot_acceptPost_same n,
      Part.acceptPost_phase n hwf, fun m hm => s.part.slot_acceptPost_other hm, fun a ha => s.part.acceptPost_byte_other n ha,
      s.part.acceptPost_postQueue n, rfl, ?_⟩
    rw [Part.acceptPost_eq]
  · obtain ⟨hqueue, hlast, hnext⟩ := Part.takePost_config v hintake
    exact ⟨_, exec_post hv, hlast, hqueue, fun h => by rw [hnext, h]; rfl, fun h => by rw [hnext, h]; rfl,
      fun h => by rw [hnext, h]; rfl⟩

end Sys2Proof.Machine
end

section
/-! SUPPORT. TAKE (R87, R109): the oldest number of the done list leaves it and its slot is free, and that a clear leaves the done
list empty (R114). -/

namespace Sys2Proof.Machine

/-! ## The order block in the power states (R135, R177 to R182)

Leaving ACTIVE does not reach the order block; the return to ACTIVE reaches it only through an order in the scan unit or attached
to the reclaim unit. -/

@[simp] theorem Part.submitCopy_orders (p : Part) : p.submitCopy.orders = p.orders := by
  unfold Part.submitCopy
  split <;> rfl

@[simp] theorem Part.afterRise_orders (p : Part) : p.afterRise.orders = p.orders := by
  simp only [Part.afterRise]
  split <;> simp

@[simp] theorem Part.withdrawStarting_orders (p : Part) (s : SegAddr) (step : AppendStep) :
    (p.withdrawStarting s step).orders = p.orders := by
  cases step <;> simp [Part.withdrawStarting]

@[simp] theorem Part.setBackNow_power_orders (p : Part) (a : Append) : (p.setBackNow .power a).orders = p.orders := by
  unfold Part.setBackNow
  split
  · rfl
  · split <;> rfl

@[simp] theorem Part.requestSetBack_power_orders (p : Part) : (p.requestSetBack .power).orders = p.orders := by
  unfold Part.requestSetBack
  split
  · rfl
  · next a _ =>
    split
    · rfl
    · split
      · rfl
      · split
        · cases a.step <;> simp
        · simp

@[simp] theorem Part.watchQuiet_orders (p : Part) : p.watchQuiet.orders = p.orders := by
  have hnote : p.noteQuiet.orders = p.orders := by
    simp only [Part.noteQuiet]
    split <;> rfl
  have hpark : ∀ q : Part, q.enterPark.orders = q.orders := fun q => rfl
  simp only [Part.watchQuiet]
  split_ifs <;> simp [hnote, hpark]

@[simp] theorem Part.enterContained_orders (p : Part) (st : PowerState) : (p.enterContained st).orders = p.orders := by
  simp [Part.enterContained]

/-- With no SCAN held and no order attached the return to ACTIVE leaves the order block. -/
theorem Part.enterActive_orders {p : Part} (hscan : p.scan = none) (hfree : p.attachedSlot = none) :
    p.enterActive.orders = p.orders := by
  have hreturns := Part.reclaimReturns_endsAttached { p with power.state := .active }
  have hnoScan : ({ p with power.state := .active } : Part).reclaimReturns.scan = none := hreturns.scan_eq.trans hscan
  simp only [Part.enterActive, Part.scanBoundary, hnoScan]
  exact hreturns.orders_eq hfree

theorem Part.afterClear_orders {p : Part} (hscan : p.scan = none) (hfree : p.attachedSlot = none) :
    p.afterClear.orders = p.orders := by
  have hactive := Part.enterActive_orders hscan hfree
  unfold Part.afterClear
  cases p.power.state with
  | active => rfl
  | hold => simp only; split_ifs <;> simp [hactive]
  | brace => simp only; split_ifs <;> simp [hactive]
  | park => rfl
  | stopped => rfl

/-! ## The clear (R114, R185) -/

@[simp] theorem Part.clearRecord_orders (p : Part) : p.clearRecord.orders = p.orders := by
  simp only [Part.clearRecord]
  split <;> rfl

@[simp] theorem Part.clearScan_orders (p : Part) : p.clearScan.orders = p.orders := by
  simp only [Part.clearScan]
  split <;> rfl

theorem Part.clearScan_scan (p : Part) : p.clearScan.scan = none := by
  simp only [Part.clearScan]
  split <;> rfl

/-- A clear of the reclaim unit drops an attached order without an outcome (R149). -/
theorem Part.clearReclaim_attachedSlot (p : Part) : p.clearReclaim.attachedSlot = none := rfl

@[simp] theorem Part.dropWalk_orders (p : Part) : p.dropWalk.orders = p.orders := by
  simp only [Part.dropWalk]
  split <;> rfl

@[simp] theorem Part.clearReclaim_orders (p : Part) : p.clearReclaim.orders = p.orders := p.dropWalk_orders

theorem Part.clearReclaim_scan (p : Part) : p.clearReclaim.scan = p.scan := p.dropWalk_endsAttached.scan_eq

/-- The blocks are emptied before the power state after the clear is entered, so nothing is completed then. -/
theorem Part.clearNow_orders (p : Part) : p.clearNow.orders = p.clearOrders.orders := by
  have hscan := (p.clearOrders.clearRecord.clearScan.clearReclaim_scan).trans p.clearOrders.clearRecord.clearScan_scan
  have hemptied : p.clearOrders.clearRecord.clearScan.clearReclaim.orders = p.clearOrders.orders := by simp
  refine (Part.afterClear_orders ?_ ?_).trans hemptied
  · exact hscan
  · exact Part.clearReclaim_attachedSlot _

theorem Part.clearOrders_doneList (p : Part) : p.clearOrders.orders.doneList = [] := rfl

/-! ## The take (R109) -/

theorem Part.takeValue_nil {p : Part} (h : p.orders.doneList = []) : p.takeValue = 0x00FF := by
  simp [Part.takeValue, h]

theorem Part.takeValue_cons {p : Part} {n : SlotNo} {rest : List SlotNo} (h : p.orders.doneList = n :: rest) :
    p.takeValue = BitVec.ofNat 16 n.val := by
  simp [Part.takeValue, h]

theorem Part.takeSlot_nil {p : Part} (h : p.orders.doneList = []) : p.takeSlot = p := by
  simp [Part.takeSlot, h]

theorem Part.takeSlot_cons {p : Part} {n : SlotNo} {rest : List SlotNo} (h : p.orders.doneList = n :: rest) :
    p.takeSlot = { p with orders.doneList := rest }.setSlot n ⟨false, .idle⟩ := by
  simp [Part.takeSlot, h]

/-- In the 8-bit mode TAKE is its low-byte read, served or not (R79). -/
theorem exec_take_byte {s : State} (hmode : s.part.busMode = .byte8) : exec .take s = exec (.lowByteRead .take) s := by
  show execTake s = execLowByteRead .take s
  simp [execTake, execLowByteRead, run_next, Part.readAccess, Part.readTake, Part.wordMode, hmode, regOfByte]

/-- A served TAKE read of a word mode: the value is driven, placed under BYTEORD in the 16-bit mode, and the slot taken. -/
theorem exec_take_word {s : State} (hs : s.part.served = true)
    (hmode : s.part.busMode = .word16 ∨ (s.part.busMode = .serial ∧ s.part.bus.serial = .framed .take true)) :
    exec .take s = .next { s with part := (s.part.drive (some (if s.part.busMode = .word16 then s.part.placed s.part.takeValue
      else s.part.takeValue))).takeSlot } := by
  show execTake s = _
  rcases hmode with hmode | ⟨hmode, hframed⟩
  · simp [execTake, run_next, Part.readAccess, Part.readTake, Part.wordMode, hs, hmode]
  · simp [execTake, run_next, Part.readAccess, Part.readTake, Part.wordMode, Part.frames, hs, hmode, hframed]

/-- Settles O19: the take by whether the done list is empty, after the value has been driven; the clear by the blocks it has
emptied when the power state after it is entered. -/
theorem takeReturnsOldest : Obligations.TakeReturnsOldest := by
  refine ⟨fun p => Part.takeValue_nil (by rw [p.clearNow_orders, p.clearOrders_doneList]),
    fun s hs => ⟨exec_take_byte, fun hmode => ⟨fun hempty => ?_, fun n rest hdone => ?_⟩⟩⟩
  · rw [exec_take_word hs hmode, Part.takeValue_nil hempty, Part.takeSlot_nil (by simpa using hempty)]
    rfl
  · rw [exec_take_word hs hmode, Part.takeValue_cons hdone, Part.takeSlot_cons (by simpa using hdone)]
    exact ⟨_, rfl, rfl, rfl, Part.slot_setSlot_same _ n _, fun m hm => Part.slot_setSlot_other _ _ hm, rfl⟩

end Sys2Proof.Machine
end

section
/-! SUPPORT. The invariants of the stored data and of the slot table (R16, R89, R96) read a few fields of the part only: the ledger.
Below, what every operation of the part does to the ledger is said once, so that each invariant is two small goals a command. -/

namespace Sys2Proof.Machine

/-! ## The ledger -/

/-- What the two invariants read of the part. -/
structure Ledger where
  mem : Mem
  dir : List DirEntry
  doneFlag : Byte
  slots : SlotNo → SlotEntry
  postQueue : List SlotNo
  units : List SlotNo
  doneList : List SlotNo

/-- The ledger of a part. -/
def Part.ledger (p : Part) : Ledger :=
  { mem := p.mem, dir := p.dir, doneFlag := p.bus.sticky &&& 1, slots := p.slot, postQueue := p.orders.postQueue,
    units := p.unitSlots, doneList := p.orders.doneList }

/-- The entry R96's table gives a slot number, from the three collections. -/
def entryDue (queue units done : List SlotNo) (n : SlotNo) : SlotEntry :=
  if n ∈ queue then ⟨true, .queued⟩
  else if n ∈ units then ⟨true, .running⟩
  else if n ∈ done then ⟨true, .done⟩
  else ⟨false, .idle⟩

/-- The slot rule of three collections. -/
def SlotRule (slots : SlotNo → SlotEntry) (queue units done : List SlotNo) : Prop :=
  (queue ++ units ++ done).Nodup ∧ ∀ n, slots n = entryDue queue units done n

/-- The slot rule with further numbers on their way between the collections, RUNNING like those in the units. -/
def Ledger.SlotsWith (l : Ledger) (moving : List SlotNo) : Prop :=
  SlotRule l.slots l.postQueue (moving ++ l.units) l.doneList

theorem Part.slotsKept_iff (p : Part) : p.SlotsKept ↔ p.ledger.SlotsWith [] := Iff.rfl

theorem Part.sound_iff (p : Part) :
    p.Sound ↔ Mem.wf p.ledger.mem = true ∧ p.ledger.postQueue.length ≤ queueCapacity ∧ p.ledger.doneFlag = 0
      ∧ dirSorted p.ledger.dir = true := Iff.rfl

/-- From `p` to `q` both invariants are kept, whichever numbers are on their way. -/
structure Part.Safe (p q : Part) : Prop where
  sound : p.Sound → q.Sound
  slots : ∀ moving, p.ledger.SlotsWith moving → q.ledger.SlotsWith moving

theorem Part.Safe.refl (p : Part) : p.Safe p := ⟨id, fun _ => id⟩

theorem Part.Safe.trans {p q r : Part} (hpq : p.Safe q) (hqr : q.Safe r) : p.Safe r :=
  ⟨fun h => hqr.sound (hpq.sound h), fun l h => hqr.slots l (hpq.slots l h)⟩

/-- An operation that leaves the ledger keeps both invariants. -/
theorem Part.Safe.of_ledger {p q : Part} (h : q.ledger = p.ledger) : p.Safe q := by
  refine ⟨fun hp => ?_, fun l hp => ?_⟩
  · rw [Part.sound_iff] at hp ⊢
    rwa [h]
  · rwa [h]

/-- A safe operation stays one after a change that leaves the ledger. -/
theorem Part.Safe.after {p q r : Part} (hqr : q.Safe r) (h : q.ledger = p.ledger) : p.Safe r := (Part.Safe.of_ledger h).trans hqr

/-- A store of bytes keeps both invariants. -/
theorem Part.safe_store (p : Part) (a : Nat) (bytes : List Byte) : p.Safe (p.store a bytes) :=
  ⟨fun ⟨hmem, hrest⟩ => ⟨Part.wf_store a bytes hmem, hrest⟩, fun _ h => h⟩

/-- A change of the directory that keeps its order keeps both invariants. -/
theorem Part.safe_dir (p : Part) {d : List DirEntry} (h : dirSorted p.dir = true → dirSorted d = true) :
    p.Safe { p with dir := d } :=
  ⟨fun ⟨hmem, hqueue, hflag, hdir⟩ => ⟨hmem, hqueue, hflag, h hdir⟩, fun _ h => h⟩

theorem Part.raise_ledger (p : Part) (n : Sticky) : (p.raise n).ledger = p.ledger := by
  simp only [Part.ledger, Part.raise_done]
  rfl

theorem Part.safe_raise (p : Part) (n : Sticky) : p.Safe (p.raise n) := .of_ledger (p.raise_ledger n)

theorem Part.safe_writePhase (p : Part) (n : SlotNo) (b : Byte) : p.Safe (p.writePhase n b) := p.safe_store _ _

theorem Part.safe_writeResult (p : Part) (n : SlotNo) (r : Result) : p.Safe (p.writeResult n r) :=
  ((p.safe_store _ _).trans (Part.safe_store _ _ _)).trans (Part.safe_store _ _ _)

/-! ## Moving a slot number (R96) -/

theorem Part.slot_setSlot (p : Part) (n : SlotNo) (e : SlotEntry) : (p.setSlot n e).slot = Function.update p.slot n e := by
  funext m
  by_cases hm : m = n
  · subst hm; simp
  · simp [hm, Part.slot_setSlot_other]

/-- A slot number moves between the collections: the others stay where they are, and its entry is the one due where it comes. -/
theorem SlotRule.move {slots : SlotNo → SlotEntry} {queue units done queue' units' done' : List SlotNo}
    (h : SlotRule slots queue units done) (n : SlotNo) (hnodup : (queue' ++ units' ++ done').Nodup)
    (hothers : ∀ m, m ≠ n → (m ∈ queue' ↔ m ∈ queue) ∧ (m ∈ units' ↔ m ∈ units) ∧ (m ∈ done' ↔ m ∈ done)) :
    SlotRule (Function.update slots n (entryDue queue' units' done' n)) queue' units' done' := by
  refine ⟨hnodup, fun m => ?_⟩
  by_cases hm : m = n
  · subst hm; simp
  · obtain ⟨hq, hu, hd⟩ := hothers m hm
    rw [Function.update_of_ne hm, h.2 m]
    simp only [entryDue, hq, hu, hd]

/-- Slot numbers in another order within the units are in the same place. -/
theorem SlotRule.perm {slots : SlotNo → SlotEntry} {queue units units' done : List SlotNo}
    (h : SlotRule slots queue units done) (hperm : units'.Perm units) : SlotRule slots queue units' done := by
  refine ⟨((hperm.append_left queue).append_right done).nodup_iff.2 h.1, fun m => ?_⟩
  rw [h.2 m]
  simp only [entryDue, hperm.mem_iff]

/-- A number on its way reaches the done list. -/
theorem SlotRule.finish {slots : SlotNo → SlotEntry} {queue units done : List SlotNo} {n : SlotNo}
    (h : SlotRule slots queue (n :: units) done) :
    SlotRule (Function.update slots n ⟨true, .done⟩) queue units (done ++ [n]) := by
  have hnodup := h.1
  have hmove := h.move (queue' := queue) (units' := units) (done' := done ++ [n]) n (by grind) (by grind)
  have hdue : entryDue queue units (done ++ [n]) n = ⟨true, .done⟩ := by
    simp only [entryDue]; grind
  rwa [hdue] at hmove

/-- The head of the post queue is on its way. -/
theorem SlotRule.start {slots : SlotNo → SlotEntry} {queue units done : List SlotNo} {n : SlotNo}
    (h : SlotRule slots (n :: queue) units done) :
    SlotRule (Function.update slots n ⟨true, .running⟩) queue (n :: units) done := by
  have hnodup := h.1
  have hmove := h.move (queue' := queue) (units' := n :: units) (done' := done) n (by grind) (by grind)
  have hdue : entryDue queue (n :: units) done n = ⟨true, .running⟩ := by
    simp only [entryDue]; grind
  rwa [hdue] at hmove

/-- A free slot's number joins the post queue. -/
theorem SlotRule.accept {slots : SlotNo → SlotEntry} {queue units done : List SlotNo} {n : SlotNo}
    (h : SlotRule slots queue units done) (hfree : (slots n).held = false) :
    SlotRule (Function.update slots n ⟨true, .queued⟩) (queue ++ [n]) units done := by
  have hnodup := h.1
  have hdue := h.2 n
  have hout : n ∉ queue ∧ n ∉ units ∧ n ∉ done := by
    simp only [entryDue] at hdue; grind
  have hmove := h.move (queue' := queue ++ [n]) (units' := units) (done' := done) n (by grind) (by grind)
  have hqueued : entryDue (queue ++ [n]) units done n = ⟨true, .queued⟩ := by simp [entryDue]
  rwa [hqueued] at hmove

/-- The oldest number of the done list leaves it. -/
theorem SlotRule.take {slots : SlotNo → SlotEntry} {queue units done : List SlotNo} {n : SlotNo}
    (h : SlotRule slots queue units (n :: done)) :
    SlotRule (Function.update slots n ⟨false, .idle⟩) queue units done := by
  have hnodup := h.1
  have hmove := h.move (queue' := queue) (units' := units) (done' := done) n (by grind) (by grind)
  have hdue : entryDue queue units done n = ⟨false, .idle⟩ := by
    simp only [entryDue]; grind
  rwa [hdue] at hmove

theorem Part.slot_complete (p : Part) (n : SlotNo) (r : Result) :
    (p.complete n r).slot = Function.update p.slot n ⟨true, .done⟩ := by
  funext m
  by_cases hm : m = n
  · subst hm; simp
  · simp [hm, Part.slot_complete_other]

/-- A completion keeps the stored data's invariant. -/
theorem Part.complete_sound {p : Part} (n : SlotNo) (r : Result) (h : p.Sound) : (p.complete n r).Sound := by
  obtain ⟨hmem, hrest⟩ := h
  exact ⟨Part.wf_complete n r hmem, by simpa using hrest⟩

/-- A completion takes a number on its way to the done list. -/
theorem Part.complete_slots {p : Part} {n : SlotNo} {moving : List SlotNo} (r : Result)
    (h : p.ledger.SlotsWith (n :: moving)) : (p.complete n r).ledger.SlotsWith moving := by
  have hfinish := SlotRule.finish h
  simpa [Ledger.SlotsWith, Part.ledger, Part.slot_complete, Part.unitSlots] using hfinish

/-- A unit gives its number up and completes it: both invariants are kept. -/
theorem Part.Safe.of_completed {p q : Part} {n : SlotNo} (r : Result)
    (hledger : q.ledger = { p.ledger with units := q.unitSlots }) (hunits : p.unitSlots.Perm (n :: q.unitSlots)) :
    p.Safe (q.complete n r) := by
  refine ⟨fun h => ?_, fun moving h => Part.complete_slots r ?_⟩
  · refine Part.complete_sound n r ?_
    rw [Part.sound_iff] at h ⊢
    rwa [hledger]
  · rw [hledger]
    refine SlotRule.perm h ?_
    refine List.Perm.trans ?_ (hunits.symm.append_left moving)
    exact List.perm_middle.symm

end Sys2Proof.Machine
end

section
/-! SUPPORT. The order block and the reclaim unit keep the two invariants (R96 to R109, R149 to R162). -/

namespace Sys2Proof.Machine

/-! ## The key directory's order (R16) -/

/-- The entry put comes first, or the old first entry stays first. -/
theorem dirSorted_cons {x : DirEntry} {d : List DirEntry} :
    dirSorted (x :: d) = true ↔ (∀ y ∈ d.head?, x.key < y.key) ∧ dirSorted d = true := by
  cases d <;> simp [dirSorted]

theorem dirPut_head? (e : DirEntry) (d : List DirEntry) :
    ∀ y ∈ (dirPut e d).head?, y = e ∨ y ∈ d.head? := by
  cases d with
  | nil => simp [dirPut]
  | cons x rest => unfold dirPut; split_ifs <;> simp

theorem dirSorted_dirPut (e : DirEntry) {d : List DirEntry} (h : dirSorted d = true) : dirSorted (dirPut e d) = true := by
  induction d with
  | nil => rfl
  | cons x rest ih =>
    have hx := dirSorted_cons.1 h
    unfold dirPut
    split_ifs with hlt heq
    · exact dirSorted_cons.2 ⟨by simpa using hlt, h⟩
    · exact dirSorted_cons.2 ⟨by simpa [heq] using hx.1, hx.2⟩
    · refine dirSorted_cons.2 ⟨fun y hy => ?_, ih hx.2⟩
      rcases dirPut_head? e rest y hy with rfl | hy
      · bv_omega
      · exact hx.1 y hy

/-- In key order, the first key is below every later one. -/
theorem dirSorted_iff_pairwise (d : List DirEntry) : dirSorted d = true ↔ d.Pairwise fun x y => x.key < y.key := by
  induction d with
  | nil => simp [dirSorted]
  | cons x rest ih =>
    rw [dirSorted_cons, ih, List.pairwise_cons]
    refine and_congr_left fun hrest => ⟨fun h y hy => ?_, fun h y hy => h y (List.mem_of_mem_head? hy)⟩
    cases rest with
    | nil => simp at hy
    | cons z rest =>
      have hz : x.key < z.key := h z rfl
      rcases List.mem_cons.1 hy with rfl | hy
      · exact hz
      · exact BitVec.lt_trans hz ((List.pairwise_cons.1 hrest).1 y hy)

theorem dirSorted_dirRemove (key : Long) {d : List DirEntry} (h : dirSorted d = true) : dirSorted (dirRemove key d) = true := by
  rw [dirSorted_iff_pairwise] at h ⊢
  exact h.filter _

theorem dirSorted_dirMount {e : DirEntry} {d d' : List DirEntry} (hmount : dirMount e d = some d') (h : dirSorted d = true) :
    dirSorted d' = true := by
  unfold dirMount at hmount
  split at hmount
  · split at hmount
    · exact absurd hmount (by simp)
    · simp only [Option.some.injEq] at hmount
      exact hmount ▸ dirSorted_dirPut e h
  · split at hmount
    · simp only [Option.some.injEq] at hmount
      exact hmount ▸ dirSorted_dirPut e h
    · simp only [Option.some.injEq] at hmount
      exact hmount ▸ h

theorem Part.safe_dirAppend (p : Part) (e : DirEntry) : p.Safe (p.dirAppend e) := by
  have hput : p.Safe { p with dir := dirPut e p.dir } := p.safe_dir (dirSorted_dirPut e)
  unfold Part.dirAppend
  split
  · exact hput.trans (.of_ledger rfl)
  · exact hput.trans (.of_ledger rfl)

theorem Part.safe_dirRepoint (p : Part) (key : Long) (loc : RecLoc) : p.Safe (p.dirRepoint key loc) := by
  unfold Part.dirRepoint
  split
  · exact .refl p
  · next old _ =>
    have hput : p.Safe { p with dir := dirPut { old with loc := loc } p.dir } := p.safe_dir (dirSorted_dirPut _)
    exact hput.trans (.of_ledger rfl)

theorem Part.safe_dirDrop (p : Part) (key : Long) (tail : SegAddr) : p.Safe (p.dirDrop key tail) :=
  (p.safe_dir (dirSorted_dirRemove key)).trans (.of_ledger rfl)

/-! ## Units that end their orders (R108) -/

theorem Part.safe_finishRecord (p : Part) (r : Result) : p.Safe (p.finishRecord r) := by
  rcases p.finishRecord_cases r with ⟨_, h⟩ | ⟨o, hrecord, h⟩
  · rw [h]; exact .refl p
  · rw [h]
    refine Part.Safe.of_completed r rfl ?_
    simp [Part.unitSlots, hrecord]

theorem Part.safe_endScan {p : Part} {o : ScanOrder} (r : Result) (resume : Long) (h : p.scan.map (·.slot) = some o.slot) :
    p.Safe (p.endScan o r resume) := by
  refine Part.Safe.of_completed _ rfl ?_
  simp only [Part.unitSlots, h, Option.toList_some, Option.map_none, Option.toList_none, List.append_nil, List.append_assoc]
  exact List.perm_middle

/-- The attached RECLAIM order ends and is completed. -/
theorem Part.safe_endAttached {p : Part} {a : Attached} (r : Result) (h : p.reclaim.attached = some a) :
    p.Safe ({ p with reclaim.attached := none }.complete a.slot r) := by
  refine Part.Safe.of_completed _ rfl ?_
  simp only [Part.unitSlots, h, Option.map_some, Option.toList_some, Option.map_none, Option.toList_none, List.append_nil]
  rw [List.append_assoc]
  exact List.perm_middle

theorem Part.safe_endFormat {p : Part} {job job' : FormatJob} (h : p.format = some job) (hslot : job'.slot = job.slot) :
    p.Safe (p.endFormat job') := by
  refine Part.Safe.of_completed _ rfl ?_
  simp only [Part.unitSlots, h, hslot, Option.map_some, Option.toList_some, Option.map_none, Option.toList_none, List.append_nil]
  exact List.perm_append_singleton job.slot _

/-! ## The reclaim unit (R149 to R162) -/

theorem Part.toReclaim_ledger (p : Part) (st : ReclaimState) : (p.toReclaim st).ledger = p.ledger := by
  unfold Part.toReclaim
  split <;> rfl

theorem Part.safe_toReclaim (p : Part) (st : ReclaimState) : p.Safe (p.toReclaim st) := .of_ledger (p.toReclaim_ledger st)

theorem Part.dropWalk_ledger (p : Part) : p.dropWalk.ledger = p.ledger := by
  simp only [Part.dropWalk]
  split <;> rfl

theorem Part.safe_endHaltedOrder (p : Part) (tail : Option SegAddr) : p.Safe (p.endHaltedOrder tail) := by
  unfold Part.endHaltedOrder
  split
  · exact .refl p
  · next a ha =>
    split
    · exact Part.safe_endAttached _ ha
    · exact .refl p

theorem Part.safe_haltReclaim (p : Part) : p.Safe p.haltReclaim :=
  (((Part.Safe.of_ledger p.dropWalk_ledger).trans (Part.safe_toReclaim _ _)).trans (Part.safe_raise _ _)).trans
    (Part.safe_endHaltedOrder _ _)

theorem Part.safe_takeTail (p : Part) (a : SegAddr) (origin : Origin) : p.Safe (p.takeTail a origin) := .of_ledger rfl

theorem Part.safe_settleDecision (p : Part) (d : ChainDecision) : p.Safe (p.settleDecision d).1 := by
  cases d with
  | idle => exact p.safe_toReclaim .idle
  | stalled => exact (p.safe_toReclaim .stalled).trans (Part.safe_raise _ _)
  | halt => exact p.safe_haltReclaim
  | take a => exact .refl p

theorem Part.endWalk_ledger (p : Part) (t : SegAddr) : (p.endWalk t).ledger = p.ledger := by
  have hslot : (p.endWalk t).attachedSlot = p.attachedSlot := by
    simp only [Part.attachedSlot, Part.endWalk, Part.modSeg_frame, Option.map_map]
    congr 1
    funext a
    simp only [Function.comp]
    split <;> rfl
  have hunits : (p.endWalk t).unitSlots = p.unitSlots := by
    show _ ++ _ ++ ((p.endWalk t).attachedSlot).toList ++ _ = _
    rw [hslot]
    rfl
  simp only [Part.ledger, hunits]
  rfl

theorem Part.safe_endWalk (p : Part) (t : SegAddr) : p.Safe (p.endWalk t) := .of_ledger (p.endWalk_ledger t)

theorem Part.safe_afterWalk (p : Part) : p.Safe p.afterWalk.1 := by
  have hidle := p.safe_toReclaim .idle
  unfold Part.afterWalk
  split
  · split
    · exact p.safe_settleDecision _
    · exact hidle
  · simp only
    split
    · split
      · exact hidle.trans (Part.safe_settleDecision _ _)
      · exact hidle.trans (.of_ledger rfl)
    · exact hidle

theorem Part.safe_walkFrom (n : Nat) (p : Part) : p.Safe (p.walkFrom n) := by
  induction n generalizing p with
  | zero => exact .refl p
  | succ n ih =>
    rw [Part.walkFrom]
    split
    · exact .refl p
    · next t _ =>
      have hnext := (p.safe_endWalk t).trans (p.endWalk t).safe_afterWalk
      split
      · exact .of_ledger rfl
      · split
        · next q hq => rwa [hq] at hnext
        · next q a hq =>
          rw [hq] at hnext
          exact (hnext.trans (q.safe_takeTail a .trigger)).trans (ih _)

theorem Part.safe_walk (p : Part) : p.Safe p.walk := p.safe_walkFrom _ 

theorem Part.safe_evaluate (p : Part) (origin : Origin) : p.Safe (p.evaluate origin) := by
  have hsettled := p.safe_settleDecision p.decideChain
  unfold Part.evaluate
  split
  · next q hq => rwa [hq] at hsettled
  · next q a hq =>
    rw [hq] at hsettled
    exact (hsettled.trans (q.safe_takeTail a origin)).trans (Part.safe_walk _)

theorem Part.safe_trigger (p : Part) : p.Safe p.trigger := by
  unfold Part.trigger
  split
  · split
    · exact p.safe_evaluate .trigger
    · exact p.safe_evaluate .trigger
    · exact .refl p
    · exact .refl p
  · exact .of_ledger rfl

theorem Part.safe_compareLow (p : Part) : p.Safe p.compareLow := by
  unfold Part.compareLow
  split
  · exact p.safe_trigger
  · exact .refl p

theorem Part.safe_actRelease (p : Part) : p.Safe p.actRelease := by
  unfold Part.actRelease
  split
  · exact p.safe_evaluate .trigger
  · exact p.safe_toReclaim .idle

theorem Part.safe_release (p : Part) : p.Safe p.release := by
  unfold Part.release
  cases p.reclaim.state with
  | stalled =>
    simp only
    split
    · exact p.safe_actRelease
    · exact .of_ledger rfl
  | idle => exact .refl p
  | copying => exact .refl p
  | halted => exact .refl p

theorem Part.safe_releaseIfFell (p : Part) (a : SegAddr) (before : SegEntry) : p.Safe (p.releaseIfFell a before) := by
  unfold Part.releaseIfFell
  split
  · exact p.safe_release
  · exact .refl p

theorem Part.safe_releaseIfClosed (p : Part) (a : SegAddr) : p.Safe (p.releaseIfClosed a) := by
  unfold Part.releaseIfClosed
  split
  · exact p.safe_release
  · exact .refl p

theorem Part.safe_reclaimReturns (p : Part) : p.Safe p.reclaimReturns := by
  unfold Part.reclaimReturns
  cases p.reclaim.state with
  | idle =>
    simp only
    split
    · exact (Part.safe_evaluate _ .trigger).after rfl
    · exact .refl p
  | stalled =>
    simp only
    split
    · exact (Part.safe_actRelease _).after rfl
    · split
      · exact (Part.safe_evaluate _ .trigger).after rfl
      · exact .refl p
  | copying => exact .of_ledger rfl
  | halted => exact .of_ledger rfl

theorem Part.safe_submitCopy (p : Part) : p.Safe p.submitCopy := by
  unfold Part.submitCopy
  split <;> exact .of_ledger rfl

theorem Part.safe_moveOn (p : Part) (lines : Nat) : p.Safe (p.moveOn lines) := (Part.safe_walk _).after rfl

theorem Part.safe_walkStops (p : Part) (t : SegAddr) : p.Safe (p.walkStops t) := by
  have hnext := (p.safe_endWalk t).trans (p.endWalk t).safe_afterWalk
  unfold Part.walkStops
  split
  · split
    · next q hq => rwa [hq] at hnext
    · next q a hq =>
      rw [hq] at hnext
      exact (hnext.trans (q.safe_takeTail a .trigger)).trans (Part.safe_walk _)
  · exact p.safe_haltReclaim

theorem Part.safe_readTail (p : Part) (t : SegAddr) (line : Nat) : p.Safe (p.readTail t line) := .of_ledger rfl

theorem Part.safe_walkHeader (p : Part) (t : SegAddr) (bytes : List Byte) : p.Safe (p.walkHeader t bytes) := by
  simp only [Part.walkHeader]
  split
  · exact p.safe_walkStops t
  · split
    · exact p.safe_moveOn _
    · split
      · exact (p.safe_dirDrop _ t).trans (Part.safe_moveOn _ _)
      · split
        · exact (Part.safe_submitCopy _).after rfl
        · exact .of_ledger rfl

theorem Part.safe_walkFurther (p : Part) (t : SegAddr) (h : Hand) (bytes : List Byte) : p.Safe (p.walkFurther t h bytes) := by
  simp only [Part.walkFurther]
  split
  · exact (Part.safe_submitCopy _).after rfl
  · exact .of_ledger rfl

theorem Part.safe_walkLine (p : Part) (bytes : List Byte) : p.Safe (p.walkLine bytes) := by
  unfold Part.walkLine
  split
  · exact .refl p
  · split
    · exact p.safe_walkHeader _ bytes
    · exact p.safe_walkFurther _ _ bytes

theorem Part.safe_copyAnswer (p : Part) (ans : CopyAnswer) : p.Safe (p.copyAnswer ans) := by
  unfold Part.copyAnswer
  split
  · cases ans with
    | completed => exact (Part.safe_moveOn _ _).after rfl
    | discarded => exact p.safe_moveOn _
    | journalFull =>
      simp only
      split
      · exact .of_ledger rfl
      · exact p.safe_haltReclaim
    | laneLost =>
      simp only
      split
      · exact p.safe_submitCopy
      · exact p.safe_haltReclaim
    | programFault => exact p.safe_haltReclaim
    | sequenceSpent => exact p.safe_haltReclaim
  · exact .refl p

theorem Part.safe_afterRise (p : Part) : p.Safe p.afterRise := by
  simp only [Part.afterRise]
  split
  · exact (Part.safe_submitCopy _).after rfl
  · exact .of_ledger rfl

theorem Part.safe_recheckCopyWait (p : Part) : p.Safe p.recheckCopyWait := by
  unfold Part.recheckCopyWait
  split
  · exact p.safe_haltReclaim
  · exact .refl p

theorem Part.safe_reportAttached (p : Part) (a : SegAddr) (rep : EraseReport) : p.Safe (p.reportAttached a rep) := by
  unfold Part.reportAttached
  split
  · exact .refl p
  · next o ho =>
    split
    · exact Part.safe_endAttached _ ho
    · exact .refl p

/-- A change of the FORMAT order in progress that keeps its slot leaves the ledger. -/
theorem Part.safe_setFormat {p : Part} {job job' : FormatJob} (h : p.format = some job) (hslot : job'.slot = job.slot) :
    p.Safe { p with format := some job' } := by
  refine .of_ledger ?_
  simp only [Part.ledger, Part.unitSlots, h, Option.map_some, hslot]
  rfl

theorem Part.safe_reportFormat (p : Part) (a : SegAddr) (rep : EraseReport) : p.Safe (p.reportFormat a rep) := by
  unfold Part.reportFormat
  split
  · exact .refl p
  · next job hjob =>
    split
    · simp only
      split
      · exact Part.safe_endFormat hjob rfl
      · exact Part.safe_setFormat hjob rfl
    · exact .refl p

theorem Part.safe_reportErase (p : Part) (a : SegAddr) (rep : EraseReport) : p.Safe (p.reportErase a rep) :=
  (p.safe_reportAttached a rep).trans (Part.safe_reportFormat _ a rep)

theorem Part.safe_modSeg (p : Part) (a : SegAddr) (f : SegEntry → SegEntry) : p.Safe (p.modSeg a f) := .of_ledger rfl

theorem Part.safe_eraseEnds (p : Part) (a : SegAddr) (pass : Bool) : p.Safe (p.eraseEnds a pass) := by
  unfold Part.eraseEnds
  split
  · exact ((p.safe_modSeg a _).trans (Part.safe_reportErase _ a _)).trans (Part.safe_afterRise _)
  · exact ((p.safe_modSeg a _).trans (Part.safe_reportErase _ a _)).trans (Part.safe_recheckCopyWait _)

end Sys2Proof.Machine
end

section
/-! SUPPORT. The head writer, the record unit and the scan unit keep the two invariants (R115 to R147). -/

namespace Sys2Proof.Machine

/-! ## The head writer (R123 to R135) -/

theorem Part.safe_endAppend (p : Part) (why : AppendEnd) (a : Append) : p.Safe (p.endAppend why a) := by
  simp only [Part.endAppend]
  split
  · exact (Part.safe_finishRecord _ _).after rfl
  · exact (Part.safe_copyAnswer _ _).after rfl

theorem Part.safe_programNext (p : Part) (s : SegAddr) (first : Nat) (a : Append) : p.Safe (p.programNext s first a) :=
  .of_ledger rfl

theorem Part.safe_beginRecord (p : Part) (s : SegAddr) (first : Nat) (a : Append) : p.Safe (p.beginRecord s first a) :=
  .of_ledger rfl

theorem Part.safe_closeHead (p : Part) (s : SegAddr) (cause : CloseCause) (a : Append) : p.Safe (p.closeHead s cause a) :=
  .of_ledger rfl

theorem Part.safe_reserveUnmet (p : Part) (a : Append) : p.Safe (p.reserveUnmet a) := by
  unfold Part.reserveUnmet
  split
  · split
    · exact .of_ledger rfl
    · exact p.safe_endAppend _ a
  · exact p.safe_endAppend _ a

theorem Part.setAppend_ledger (p : Part) (a : Append) : (p.setAppend a).ledger = p.ledger := rfl

theorem Part.placeProgram_ledger (p : Part) (s : SegAddr) (line : Nat) (bytes : List Byte) (continuing : Bool) :
    (p.placeProgram s line bytes continuing).ledger = p.ledger := rfl

theorem Part.takeOpening_ledger (p : Part) (s : SegAddr) : (p.takeOpening s).ledger = p.ledger := rfl

theorem Part.safe_openSegment (p : Part) (a : Append) : p.Safe (p.openSegment a) := by
  unfold Part.openSegment
  split
  · exact p.safe_reserveUnmet a
  · split
    · exact p.safe_endAppend _ a
    · split
      · exact p.safe_reserveUnmet a
      · refine (Part.safe_compareLow _).after ?_
        rw [Part.placeProgram_ledger, Part.setAppend_ledger, Part.takeOpening_ledger]

theorem Part.safe_placement (p : Part) (a : Append) : p.Safe (p.placement a) := by
  unfold Part.placement
  split
  · exact p.safe_openSegment a
  · split
    · exact p.safe_beginRecord _ _ a
    · split
      · exact p.safe_reserveUnmet a
      · exact p.safe_closeHead _ _ a

theorem Part.safe_grantRequest (p : Part) (r : OrderReq) : p.Safe (p.grantRequest r) := by
  simp only [Part.grantRequest]
  split
  · exact (Part.safe_finishRecord _ _).after rfl
  · split
    · exact (Part.safe_placement _ _).after rfl
    · split
      · exact (Part.safe_finishRecord _ _).after rfl
      · exact (Part.safe_placement _ _).after rfl

theorem Part.safe_grantOrder (p : Part) : p.Safe p.grantOrder := by
  unfold Part.grantOrder
  split
  · exact .refl p
  · split
    · exact p.safe_grantRequest _
    · exact .refl p

theorem Part.safe_grantCopyReq (p : Part) (c : CopyReq) : p.Safe (p.grantCopyReq c) := by
  simp only [Part.grantCopyReq]
  split
  · exact (Part.safe_copyAnswer _ _).after rfl
  · exact (Part.safe_placement _ _).after rfl

theorem Part.safe_grantCopy (p : Part) : p.Safe p.grantCopy := by
  unfold Part.grantCopy
  split
  · exact .refl p
  · split
    · exact p.safe_grantCopyReq _
    · exact .refl p

theorem Part.safe_setBackNow (p : Part) (cause : SetBack) (a : Append) : p.Safe (p.setBackNow cause a) := by
  unfold Part.setBackNow
  split
  · cases cause with
    | winh => exact p.safe_endAppend _ a
    | power => exact .of_ledger rfl
  · split <;> exact .of_ledger rfl

theorem Part.safe_withdrawStarting (p : Part) (s : SegAddr) (step : AppendStep) : p.Safe (p.withdrawStarting s step) := by
  cases step with
  | opening _ => exact (Part.safe_afterRise _).after rfl
  | placing => exact .of_ledger rfl
  | closing _ _ => exact .of_ledger rfl
  | programming _ _ => exact .of_ledger rfl

theorem Part.safe_requestSetBack (p : Part) (cause : SetBack) : p.Safe (p.requestSetBack cause) := by
  unfold Part.requestSetBack
  split
  · exact .refl p
  · next a _ =>
    split
    · exact .refl p
    · split
      · exact .refl p
      · split
        · cases a.step with
          | programming _ _ => exact .refl p
          | placing => exact .of_ledger rfl
          | closing _ _ => exact .of_ledger rfl
          | opening _ => exact .of_ledger rfl
        · exact (p.safe_withdrawStarting _ _).trans (Part.safe_setBackNow _ _ _)

theorem Part.safe_onward (p : Part) (a : Append) : p.Safe (p.onward a) := by
  unfold Part.onward
  split
  · exact p.safe_setBackNow _ a
  · exact p.safe_openSegment a

theorem Part.safe_closeEnds (p : Part) (s : SegAddr) (cause : CloseCause) (o : ProgEnd) (a : Append) :
    p.Safe (p.closeEnds s cause o a) := by
  have hreleased : ∀ q : Part, q.ledger = p.ledger → p.Safe (if (p.seg s).state = .head then q.releaseIfClosed s else q) := by
    intro q hq
    split
    · exact (Part.safe_releaseIfClosed q s).after hq
    · exact .of_ledger hq
  have hclosed := hreleased { p.modSeg s (SegEntry.closedBy cause o) with head.recordsInHead := 0 } rfl
  cases cause with
  | secondFailure => exact hclosed.trans (Part.safe_endAppend _ _ a)
  | noRoom => exact hclosed.trans (Part.safe_onward _ a)
  | firstFailure => exact hclosed.trans (Part.safe_onward _ a)

theorem Part.safe_openEnds (p : Part) (s : SegAddr) (o : ProgEnd) (a : Append) : p.Safe (p.openEnds s o a) := by
  cases o with
  | pass =>
    simp only [Part.openEnds]
    split
    · exact (Part.safe_setBackNow _ _ a).after rfl
    · exact (Part.safe_beginRecord _ s 1 a).after rfl
  | fail => exact (p.safe_modSeg s _).trans (Part.safe_onward _ a)
  | laneOffline => exact (p.safe_modSeg s _).trans (Part.safe_onward _ a)
  | laneTimeout => exact (p.safe_modSeg s _).trans (Part.safe_onward _ a)

theorem Part.safe_withRelease (p : Part) (key : Long) {change : Part → Part} (h : p.Safe (change p)) :
    p.Safe (p.withRelease key change) := by
  unfold Part.withRelease
  split
  · exact h
  · exact h.trans (Part.safe_releaseIfFell _ _ _)

theorem Part.safe_completeAppend (p : Part) (s : SegAddr) (first : Nat) (a : Append) : p.Safe (p.completeAppend s first a) := by
  simp only [Part.completeAppend]
  split
  · exact ((Part.safe_withRelease _ _ (Part.safe_dirAppend _ _)).trans (Part.safe_finishRecord _ _)).after rfl
  · exact ((Part.safe_withRelease _ _ (Part.safe_dirRepoint _ _ _)).trans (Part.safe_copyAnswer _ _)).after rfl

theorem Part.safe_lineEnds (p : Part) (s : SegAddr) (first : Nat) (o : ProgEnd) (a : Append) :
    p.Safe (p.lineEnds s first o a) := by
  cases o with
  | pass =>
    simp only [Part.lineEnds]
    split
    · exact (Part.safe_completeAppend _ s first _).after rfl
    · exact .of_ledger rfl
  | fail => exact .of_ledger rfl
  | laneOffline => exact p.safe_endAppend _ a
  | laneTimeout => exact p.safe_endAppend _ a

theorem Part.safe_programEnds (p : Part) (o : ProgEnd) : p.Safe (p.programEnds o) := by
  unfold Part.programEnds
  split
  · exact .refl p
  · next a _ =>
    split
    · exact .refl p
    · exact p.safe_closeEnds _ _ o a
    · exact p.safe_openEnds _ o a
    · exact p.safe_lineEnds _ _ o a

/-! ## The record unit (R115 to R122) -/

theorem Part.safe_releaseReader (p : Part) (a : SegAddr) : p.Safe (p.releaseReader a) := .of_ledger rfl

theorem Part.safe_endGet (p : Part) (g : GetRead) (r : Result) : p.Safe (p.endGet g r) :=
  (p.safe_releaseReader _).trans (Part.safe_finishRecord _ _)

/-- The record unit's order at another step keeps its slot. -/
theorem Part.setRecordStep_ledger (p : Part) (step : RecordStep) :
    ({ p with record := p.record.map fun (o : RecordOrder) => { o with step := step } } : Part).ledger = p.ledger := by
  simp only [Part.ledger, Part.unitSlots, Option.map_map]
  rfl

theorem Part.safe_readGet (p : Part) (g : GetRead) : p.Safe (p.readGet g) := by
  have hstep := Part.Safe.of_ledger (p.setRecordStep_ledger (.reading g))
  simp only [Part.readGet]
  split
  · exact hstep.trans (.of_ledger rfl)
  · exact hstep.trans (Part.safe_endGet _ g _)

theorem Part.safe_getPayload (p : Part) (o : RecordOrder) (g : GetRead) (bytes : List Byte) :
    p.Safe (p.getPayload o g bytes) := by
  simp only [Part.getPayload]
  split
  · exact (p.safe_store _ _).trans (Part.safe_endGet _ _ _)
  · exact (p.safe_store _ _).trans (Part.safe_readGet _ _)

theorem Part.safe_getLine (p : Part) (bytes : List Byte) : p.Safe (p.getLine bytes) := by
  unfold Part.getLine
  split
  · exact .refl p
  · split
    · exact .refl p
    · split
      · exact p.safe_endGet _ _
      · split
        · exact p.safe_endGet _ _
        · exact p.safe_getPayload _ _ bytes

theorem Part.safe_getLost (p : Part) (why : Reason) : p.Safe (p.getLost why) := by
  unfold Part.getLost
  split
  · exact .refl p
  · split
    · exact .refl p
    · exact p.safe_endGet _ _

/-! ## The scan unit (R136 to R147) -/

/-- The slot of the SCAN in the scan unit. -/
def Part.scanSlot (p : Part) : Option SlotNo := p.scan.map (·.slot)

theorem Part.scanSlot_of_scan {p : Part} {o : ScanOrder} (h : p.scan = some o) : p.scanSlot = some o.slot := by
  simp [Part.scanSlot, h]

theorem Part.safe_setScan {p : Part} {o : ScanOrder} (h : p.scanSlot = some o.slot) : p.Safe (p.setScan o) := by
  refine .of_ledger ?_
  have hunits : (p.setScan o).unitSlots = p.unitSlots := by
    show _ ++ (some o.slot).toList ++ _ ++ _ = _ ++ p.scanSlot.toList ++ _ ++ _
    rw [h]
    rfl
  simp only [Part.ledger, hunits]
  rfl

theorem Part.safe_scanHit {p : Part} {o : ScanOrder} (key sequence : Long) (h : p.scanSlot = some o.slot) :
    p.Safe (p.scanHit o key sequence) := by
  unfold Part.scanHit
  split
  · refine (p.safe_store _ _).trans (Part.safe_setScan ?_)
    exact h
  · exact Part.safe_endScan _ _ h

theorem Part.safe_readScan {p : Part} {o : ScanOrder} (hand : ScanHand) (h : p.scanSlot = some o.slot) :
    p.Safe (p.readScan o hand) := by
  simp only [Part.readScan]
  split
  · refine Part.Safe.trans (Part.safe_setScan ?_) (.of_ledger rfl)
    exact h
  · refine (p.safe_releaseReader _).trans (Part.safe_setScan ?_)
    exact h

theorem Part.safe_scanSelect {p : Part} {o : ScanOrder} (e : DirEntry) (h : p.scanSlot = some o.slot) :
    p.Safe (p.scanSelect o e) := by
  simp only [Part.scanSelect]
  split
  · exact Part.safe_scanHit _ _ h
  · refine Part.Safe.after (Part.safe_readScan _ ?_) rfl
    exact h

theorem Part.safe_scanBoundary (p : Part) : p.Safe p.scanBoundary := by
  unfold Part.scanBoundary
  cases hscan : p.scan with
  | none => exact .refl p
  | some o =>
    have h := Part.scanSlot_of_scan hscan
    simp only
    split
    · exact .refl p
    · split
      · exact Part.safe_endScan _ _ h
      · split
        · exact .refl p
        · split
          · exact Part.safe_endScan _ _ h
          · split
            · exact Part.safe_setScan h
            · split
              · exact Part.safe_scanSelect _ h
              · exact Part.safe_setScan h

theorem Part.safe_scanDamaged {p : Part} {o : ScanOrder} (hand : ScanHand) (h : p.scanSlot = some o.slot) :
    p.Safe (p.scanDamaged o hand) := by
  refine Part.Safe.trans ((p.safe_releaseReader _).trans (Part.safe_setScan ?_)) (Part.safe_scanBoundary _)
  exact h

theorem Part.safe_scanDecide {p : Part} {o : ScanOrder} (hand : ScanHand) (h : p.scanSlot = some o.slot) :
    p.Safe (p.scanDecide o hand) := by
  have hrelease : (p.releaseReader hand.holds).scanSlot = some o.slot := h
  simp only [Part.scanDecide]
  split
  · exact Part.safe_scanDamaged hand h
  · split
    · exact ((p.safe_releaseReader _).trans (Part.safe_scanHit _ _ hrelease)).trans (Part.safe_scanBoundary _)
    · exact ((p.safe_releaseReader _).trans (Part.safe_setScan (o := o.examine.passKey hand.entry.key) hrelease)).trans (Part.safe_scanBoundary _)

theorem Part.safe_scanPayload {p : Part} {o : ScanOrder} (hand : ScanHand) (bytes : List Byte) (h : p.scanSlot = some o.slot) :
    p.Safe (p.scanPayload o hand bytes) := by
  simp only [Part.scanPayload]
  split
  · exact Part.safe_scanDecide _ h
  · exact (Part.safe_readScan _ h).trans (Part.safe_scanBoundary _)

theorem Part.safe_scanLine (p : Part) (bytes : List Byte) : p.Safe (p.scanLine bytes) := by
  unfold Part.scanLine
  split
  · exact .refl p
  · next o ho =>
    have h := Part.scanSlot_of_scan ho
    split
    · exact .refl p
    · split
      · exact Part.safe_scanPayload _ bytes h
      · split
        · exact Part.safe_scanPayload _ bytes h
        · exact Part.safe_scanDamaged _ h

theorem Part.safe_scanLost (p : Part) : p.Safe p.scanLost := by
  unfold Part.scanLost
  split
  · exact .refl p
  · next o ho =>
    split
    · exact .refl p
    · exact Part.safe_scanDamaged _ (Part.scanSlot_of_scan ho)

theorem Part.dropScanHand_ledger (p : Part) (o : ScanOrder) : (p.dropScanHand o).ledger = p.ledger := by
  unfold Part.dropScanHand
  split <;> rfl

theorem Part.dropScanHand_scan (p : Part) (o : ScanOrder) : (p.dropScanHand o).scan = p.scan := by
  unfold Part.dropScanHand
  split <;> rfl

theorem Part.safe_cutScan (p : Part) : p.Safe p.cutScan := by
  unfold Part.cutScan
  split
  · exact .refl p
  · next o ho =>
    have h := Part.scanSlot_of_scan ho
    split
    · refine Part.Safe.trans (Part.safe_setScan ?_) (Part.safe_scanBoundary _)
      exact h
    · refine Part.Safe.after (Part.safe_endScan _ _ ?_) (p.dropScanHand_ledger o)
      rw [p.dropScanHand_scan, ho]
      rfl

end Sys2Proof.Machine
end

section
/-! SUPPORT. The mount engine, a lane's loss and the lane controllers keep the two invariants (R58 to R73, R164 to R175). -/

namespace Sys2Proof.Machine

/-! ## The mount engine (R164 to R175) -/

theorem Part.placeMount_ledger (p : Part) (l : Lane) : (p.placeMount l).ledger = p.ledger := by
  unfold Part.placeMount
  split
  · rfl
  · split <;> rfl

theorem Part.placeMountAll_ledger (p : Part) : p.placeMountAll.ledger = p.ledger := by
  simp only [Part.placeMountAll, Part.placeMount_ledger]

theorem Part.safe_placeMountAll (p : Part) : p.Safe p.placeMountAll := .of_ledger p.placeMountAll_ledger

/-- The survey record is stored, MOUNT_ENDED raised and the free count compared (R173). -/
theorem Part.safe_reportMount (q : Part) :
    q.Safe (if ((q.store 0 q.surveyRecord).raise .mountEnded).orders.intake = .ended then
      ((q.store 0 q.surveyRecord).raise .mountEnded).compareLow else (q.store 0 q.surveyRecord).raise .mountEnded) := by
  have hraised : q.Safe ((q.store 0 q.surveyRecord).raise .mountEnded) := (q.safe_store _ _).trans (Part.safe_raise _ _)
  split
  · exact hraised.trans (Part.safe_compareLow _)
  · exact hraised

theorem Part.safe_endMount (p : Part) (st : MountState) (code : Nat) : p.Safe (p.endMount st code) :=
  (Part.safe_reportMount _).after rfl

theorem Part.cutWalk_ledger (p : Part) : p.cutWalk.ledger = p.ledger := by
  unfold Part.cutWalk
  split <;> rfl

theorem Part.safe_failMount (p : Part) (code : Nat) : p.Safe (p.failMount code) := by
  have hcut : p.Safe (p.mapSegs fun _ e => e.unwalked p.walkEpoch).cutWalk := .of_ledger (Part.cutWalk_ledger _)
  exact (hcut.trans (Part.safe_dir _ fun _ => rfl)).trans ((Part.safe_endMount _ _ _).after rfl)

theorem Part.restoreHead_ledger (p : Part) : p.restoreHead.ledger = p.ledger := by
  unfold Part.restoreHead
  split
  · rfl
  · simp only
    split <;> rfl

theorem Part.safe_completeTables (p : Part) : p.Safe p.completeTables := by
  have htables : p.Safe p.computeClaims.restoreHead := .of_ledger (Part.restoreHead_ledger _)
  simp only [Part.completeTables]
  split <;> exact htables.trans (Part.safe_endMount _ _ _)

theorem Part.finishTrailered_ledger (p : Part) (a : SegAddr) (accepted : Nat) :
    (p.finishTrailered a accepted).ledger = p.ledger := by
  simp only [Part.finishTrailered]
  split
  · split <;> rfl
  · rfl

theorem Part.lostMember_ledger (p : Part) (a : SegAddr) : (p.lostMember a).ledger = p.ledger := by
  simp only [Part.lostMember]
  split <;> rfl

theorem Part.safe_walkMembers (n : Nat) (after : Long) (p : Part) : p.Safe (p.walkMembers n after) := by
  induction n generalizing p after with
  | zero => exact .refl p
  | succ n ih =>
    rw [Part.walkMembers]
    split
    · exact p.safe_completeTables
    · split
      · exact (ih _ _).after (p.finishTrailered_ledger _ _)
      · split
        · exact (ih _ _).after (p.lostMember_ledger _)
        · exact .of_ledger rfl

theorem Part.safe_nextWalk (p : Part) (w : MountWalk) : p.Safe (p.nextWalk w) := (Part.safe_walkMembers _ _ _).after rfl

theorem Part.safe_setWalk (p : Part) (w : MountWalk) : p.Safe (p.setWalk w) := .of_ledger rfl

theorem Part.safe_stopTrailered (p : Part) (w : MountWalk) : p.Safe (p.stopTrailered w) := (Part.safe_nextWalk _ w).after rfl

theorem Part.safe_finishUntrailered (p : Part) (w : MountWalk) (used : Nat) : p.Safe (p.finishUntrailered w used) :=
  (Part.safe_nextWalk _ w).after rfl

theorem Part.safe_endUntrailered (p : Part) (w : MountWalk) (next : Nat) : p.Safe (p.endUntrailered w next) := by
  simp only [Part.endUntrailered]
  split
  · split
    · exact .of_ledger rfl
    · exact (Part.safe_finishUntrailered _ w _).after rfl
  · exact (Part.safe_finishUntrailered _ w _).after rfl

theorem Part.safe_acceptRecord {p q : Part} {w : MountWalk} {h : RecHeader} (hq : p.acceptRecord w h = some q) : p.Safe q := by
  unfold Part.acceptRecord at hq
  split at hq
  · exact absurd hq (by simp)
  · next d hd =>
    simp only [Option.some.injEq] at hq
    subst hq
    exact (p.safe_dir (dirSorted_dirMount hd)).trans (.of_ledger rfl)

theorem Part.safe_trailedLine (p : Part) (w : MountWalk) (g : Nat) (bytes : List Byte) : p.Safe (p.trailedLine w g bytes) := by
  simp only [Part.trailedLine]
  split
  · split
    · exact p.safe_failMount 5
    · next q hq =>
      have haccept := Part.safe_acceptRecord hq
      split
      · exact haccept.trans ((Part.safe_nextWalk _ _).after (q.finishTrailered_ledger _ _))
      · exact haccept.trans (Part.safe_setWalk _ _)
  · exact p.safe_stopTrailered w

theorem Part.safe_judgeRecord (p : Part) (w : MountWalk) (r : WalkRec) : p.Safe (p.judgeRecord w r) := by
  unfold Part.judgeRecord
  split
  · split
    · exact p.safe_failMount 5
    · next q hq =>
      have haccept := Part.safe_acceptRecord hq
      simp only
      split
      · exact haccept.trans (Part.safe_endUntrailered _ _ _)
      · exact haccept.trans (Part.safe_setWalk _ _)
  · exact p.safe_endUntrailered w _

theorem Part.safe_recordLine (p : Part) (w : MountWalk) (r : WalkRec) (bytes : List Byte) : p.Safe (p.recordLine w r bytes) := by
  simp only [Part.recordLine]
  split
  · exact p.safe_judgeRecord w _
  · exact p.safe_setWalk _

theorem Part.safe_walkMountLine (p : Part) (w : MountWalk) (bytes : List Byte) : p.Safe (p.walkMountLine w bytes) := by
  simp only [Part.walkMountLine]
  split
  · split
    · exact p.safe_trailedLine _ _ bytes
    · split
      · exact p.safe_endUntrailered _ _
      · exact p.safe_recordLine _ _ bytes
  · exact p.safe_recordLine _ _ bytes
  · split
    · exact p.safe_finishUntrailered _ _
    · exact p.safe_setWalk _

theorem Part.headerLine_ledger (p : Part) (l : Lane) (bytes : List Byte) : (p.headerLine l bytes).ledger = p.ledger := by
  simp only [Part.headerLine]
  split
  · split <;> rfl
  · split <;> rfl
  · split
    · rfl
    · split <;> rfl

theorem Part.safe_endHeaders (p : Part) : p.Safe p.endHeaders := by
  unfold Part.endHeaders
  split
  · exact p.safe_failMount 3
  · split
    · exact p.safe_failMount 4
    · exact (Part.safe_walkMembers _ _ _).after rfl

theorem Part.safe_endIdentify (p : Part) : p.Safe p.endIdentify := by
  unfold Part.endIdentify
  split
  · split
    · exact .of_ledger rfl
    · exact p.safe_failMount 3
  · exact .refl p

theorem Part.safe_mountProgress (p : Part) : p.Safe p.mountProgress := by
  simp only [Part.mountProgress]
  split
  · split
    · exact (p.safe_endIdentify.trans (Part.safe_endHeaders _)).trans (Part.safe_placeMountAll _)
    · exact p.safe_endIdentify.trans (Part.safe_placeMountAll _)
  · exact .refl p

theorem Part.safe_mountLine (p : Part) (l : Lane) (bytes : List Byte) : p.Safe (p.mountLine l bytes) := by
  unfold Part.mountLine
  cases p.mount.step with
  | identify => exact (Part.safe_mountProgress _).after (p.headerLine_ledger l bytes)
  | headers => exact (Part.safe_mountProgress _).after (p.headerLine_ledger l bytes)
  | records =>
    simp only
    split
    · exact (p.safe_walkMountLine _ bytes).trans (Part.safe_mountProgress _)
    · exact .refl p
  | settle => exact .refl p
  | ended => exact .refl p

theorem Part.identifyAs_ledger (p : Part) (l : Lane) (count : Nat) : (p.identifyAs l count).ledger = p.ledger := by
  unfold Part.identifyAs
  split <;> rfl

theorem Part.safe_startMount (p : Part) : p.Safe p.startMount := (Part.safe_placeMountAll _).after rfl

theorem Part.loseHeaders_ledger (p : Part) (l : Lane) : (p.loseHeaders l).ledger = p.ledger := by
  simp only [Part.loseHeaders]
  split
  · rfl
  · cases (p.mount.lanes.get l).sub <;> rfl

theorem Part.foldl_ledger {α : Type} (xs : List α) (f : Part → α → Part) (h : ∀ q x, (f q x).ledger = q.ledger) (p : Part) :
    (xs.foldl f p).ledger = p.ledger := by
  induction xs generalizing p with
  | nil => rfl
  | cons x rest ih => rw [List.foldl_cons, ih, h]

theorem Part.safe_loseWalk (p : Part) : p.Safe p.loseWalk := by
  unfold Part.loseWalk
  split
  · exact .refl p
  · split
    · exact .refl p
    · exact (Part.safe_nextWalk _ _).after rfl

theorem Part.safe_mountLoses (p : Part) (lost : List Lane) : p.Safe (p.mountLoses lost) := by
  have hheaders := Part.foldl_ledger lost (fun q l => q.loseHeaders l) (fun q l => q.loseHeaders_ledger l) p
  unfold Part.mountLoses
  split
  · cases p.mount.step with
    | identify => exact (Part.safe_mountProgress _).after hheaders
    | headers => exact (Part.safe_mountProgress _).after hheaders
    | records => exact p.safe_loseWalk.trans (Part.safe_mountProgress _)
    | settle => exact .refl p
    | ended => exact .refl p
  · exact .refl p

/-! ## Lanes that are lost (R41, R47, R69, R70) -/

theorem Part.dropLanes_ledger (p : Part) (lost : List Lane) : (p.dropLanes lost).ledger = p.ledger :=
  Part.foldl_ledger lost (fun q l => q.setLane l (q.lane l).offline) (fun _ _ => rfl) p

theorem Part.safe_abandonHead (p : Part) (lost : List Lane) : p.Safe (p.abandonHead lost) := by
  unfold Part.abandonHead
  split
  · exact .refl p
  · split
    · exact (Part.safe_releaseIfClosed _ _).after rfl
    · exact .refl p

theorem Part.safe_foldl {α : Type} (xs : List α) (f : Part → α → Part) (h : ∀ (q : Part) (x : α), q.Safe (f q x)) (p : Part) :
    p.Safe (xs.foldl f p) := by
  induction xs generalizing p with
  | nil => exact .refl p
  | cons x rest ih => exact (h p x).trans (ih _)

theorem Part.safe_reclaimLoses (p : Part) (lost : List Lane) : p.Safe (p.reclaimLoses lost) := by
  unfold Part.reclaimLoses
  split
  · exact p.safe_haltReclaim
  · exact p.safe_recheckCopyWait

theorem Part.safe_tablesLose (p : Part) (lost : List Lane) : p.Safe (p.tablesLose lost) := by
  have habandon : p.Safe (((p.dropLanes lost).raise .laneOffline).abandonHead lost) :=
    ((Part.safe_raise _ _).trans (Part.safe_abandonHead _ lost)).after (p.dropLanes_ledger lost)
  have hrest : ∀ q : Part, q.Safe ((q.reportLost lost).reclaimLoses lost) := fun q =>
    (Part.safe_foldl (q.lostErases lost) (fun r a => r.reportErase a .neither) (fun r a => r.safe_reportErase a .neither) q).trans (Part.safe_reclaimLoses _ lost)
  simp only [Part.tablesLose]
  split
  · exact (habandon.trans (Part.safe_compareLow _)).trans (hrest _)
  · exact habandon.trans (hrest _)

theorem Part.safe_recordLoses (p : Part) (why : Option Reason) : p.Safe (p.recordLoses why) := by
  cases why with
  | none => exact .refl p
  | some r => exact p.safe_getLost r

theorem Part.safe_scanLoses (p : Part) (why : Option Reason) : p.Safe (p.scanLoses why) := by
  unfold Part.scanLoses
  split
  · exact p.safe_scanLost
  · exact .refl p

theorem Part.safe_headLoses (p : Part) (why : Option Reason) : p.Safe (p.headLoses why) := by
  unfold Part.headLoses
  split
  · exact p.safe_programEnds _
  · exact p.safe_programEnds _
  · exact .refl p

theorem Part.safe_loseLanes (p : Part) (lost : List Lane) (why : Reason) : p.Safe (p.loseLanes lost why) := by
  simp only [Part.loseLanes]
  split
  · exact .refl p
  · exact ((((p.safe_tablesLose lost).trans (Part.safe_mountLoses _ lost)).trans (Part.safe_recordLoses _ _)).trans
      (Part.safe_scanLoses _ _)).trans (Part.safe_headLoses _ _)

theorem Part.dropIdentify_ledger (p : Part) (l : Lane) : (p.dropIdentify l).ledger = p.ledger := by
  unfold Part.dropIdentify
  split <;> rfl

theorem Part.safe_supplyFalls (p : Part) : p.Safe p.supplyFalls := by
  have hdrop : p.dropIdentifies.ledger = p.ledger := by simp only [Part.dropIdentifies, Part.dropIdentify_ledger]
  exact ((Part.safe_loseLanes _ _ _).trans (Part.safe_mountProgress _)).after hdrop

/-! ## The lane controllers (R58 to R68) -/

theorem Part.issue_ledger (p : Part) (l : Lane) (rq : Requester) (r : Request) : (p.issue l rq r).ledger = p.ledger := by
  unfold Part.issue Part.eraseGranted
  cases r.op <;> rfl

theorem Part.safe_grantLane (p : Part) (l : Lane) : p.Safe (p.grantLane l) := by
  unfold Part.grantLane
  split
  · exact .of_ledger (p.issue_ledger _ _ _)
  · exact .refl p

theorem Part.safe_identifyEnds (p : Part) (l : Lane) (lo hi : Byte) : p.Safe (p.identifyEnds l lo hi) := by
  unfold Part.identifyEnds
  split
  · exact (Part.safe_mountProgress _).after (Part.identifyAs_ledger _ _ _)
  · exact .refl p

theorem Part.safe_deliverLine (p : Part) (rq : Requester) (l : Lane) (bytes : List Byte) :
    p.Safe (p.deliverLine rq l bytes) := by
  cases rq with
  | mount => exact p.safe_mountLine l bytes
  | record => exact p.safe_getLine bytes
  | scan => exact p.safe_scanLine bytes
  | reclaim => exact p.safe_walkLine bytes
  | head => exact .refl p
  | erase => exact .refl p

theorem Part.safe_readEnds (p : Part) (l : Lane) (bytes : List Byte) : p.Safe (p.readEnds l bytes) := by
  unfold Part.readEnds
  split
  · split
    · exact .of_ledger rfl
    · exact (Part.safe_deliverLine _ _ l bytes).after rfl
  · exact .refl p

theorem Part.safe_programLineEnds (p : Part) (l : Lane) (status : Byte) : p.Safe (p.programLineEnds l status) := by
  unfold Part.programLineEnds
  split
  · exact (Part.safe_programEnds _ _).after rfl
  · exact .refl p

theorem Part.safe_eraseLineEnds (p : Part) (l : Lane) (status : Byte) : p.Safe (p.eraseLineEnds l status) := by
  unfold Part.eraseLineEnds
  split
  · exact (Part.safe_eraseEnds _ _ _).after rfl
  · exact .refl p

theorem Part.safe_limitExpires (p : Part) (l : Lane) : p.Safe (p.limitExpires l) := by
  unfold Part.limitExpires
  split
  · exact .refl p
  · exact (Part.safe_mountProgress _).after rfl
  · exact p.safe_loseLanes _ _

end Sys2Proof.Machine
end

section
/-! SUPPORT. Power control, the unit orders and the bus port keep the two invariants, and so does every step (R76 to R109, R158 to
R162, R177 to R186). -/

namespace Sys2Proof.Machine

/-! ## Power control (R177 to R186) -/

theorem Part.noteQuiet_ledger (p : Part) : p.noteQuiet.ledger = p.ledger := by
  simp only [Part.noteQuiet]
  split
  · rw [Part.raise_ledger]
    rfl
  · rfl

theorem Part.withdraw_ledger (p : Part) (l : Lane) (rq : Requester) : (p.withdraw l rq).ledger = p.ledger := rfl

theorem Part.enterPark_ledger (p : Part) : p.enterPark.ledger = p.ledger := by
  simp only [Part.enterPark, Part.withdraw_ledger]
  rfl

theorem Part.watchQuiet_ledger (p : Part) : p.watchQuiet.ledger = p.ledger := by
  simp only [Part.watchQuiet]
  split_ifs <;> simp only [Part.enterPark_ledger, Part.noteQuiet_ledger]

theorem Part.safe_watchQuiet (p : Part) : p.Safe p.watchQuiet := .of_ledger p.watchQuiet_ledger

theorem Part.safe_enterContained (p : Part) (st : PowerState) : p.Safe (p.enterContained st) :=
  ((Part.safe_requestSetBack _ .power).trans (Part.safe_watchQuiet _)).after rfl

theorem Part.safe_enterActive (p : Part) : p.Safe p.enterActive :=
  ((Part.safe_reclaimReturns _).trans (Part.safe_scanBoundary _)).after rfl

theorem Part.safe_afterPark (p : Part) : p.Safe p.afterPark :=
  ((Part.safe_placeMountAll _).trans (Part.safe_watchQuiet _)).after rfl

theorem Part.safe_actLevels (p : Part) (hold park : Bool) : p.Safe (p.actLevels hold park) := by
  unfold Part.actLevels
  cases p.power.state with
  | active =>
    simp only
    split
    · exact (Part.safe_enterContained _ _).after rfl
    · exact .refl p
  | hold =>
    simp only
    split
    · exact (Part.safe_enterActive _).after rfl
    · exact (Part.safe_watchQuiet _).after rfl
  | brace => exact (Part.safe_watchQuiet _).after rfl
  | park =>
    simp only
    split
    · exact .of_ledger rfl
    · split
      · exact .refl p
      · exact .of_ledger rfl
  | stopped => exact .refl p

theorem Part.safe_controlLevels (p : Part) (v : Word) : p.Safe (p.controlLevels v) := (Part.safe_actLevels _ _ _).after rfl

theorem Part.safe_controlClear (p : Part) (v : Word) : p.Safe (p.controlClear v) := by
  simp only [Part.controlClear, Part.requestClear]
  split
  · split
    · exact (Part.safe_enterContained _ _).after rfl
    · exact .of_ledger rfl
  · exact .refl p

theorem Part.safe_controlCut (p : Part) (v : Word) : p.Safe (p.controlCut v) := by
  unfold Part.controlCut
  split
  · exact p.safe_cutScan
  · exact .refl p

theorem Part.safe_seePwarn (p : Part) (level : Bool) : p.Safe (p.seePwarn level) := by
  simp only [Part.seePwarn]
  split
  · split
    · exact (Part.safe_enterContained _ _).after rfl
    · exact .of_ledger rfl
  · split
    · exact (Part.safe_enterContained _ _).after rfl
    · exact .of_ledger rfl
  · split
    · exact .of_ledger rfl
    · exact (Part.safe_enterContained _ _).after rfl
  · exact .of_ledger rfl
  · exact .of_ledger rfl

theorem Part.safe_seeWinh (p : Part) (level : Bool) : p.Safe (p.seeWinh level) := by
  simp only [Part.seeWinh]
  split
  · exact (Part.safe_requestSetBack _ _).after rfl
  · exact .of_ledger rfl

theorem Part.safe_seeStoreGood (p : Part) (level : Bool) : p.Safe (p.seeStoreGood level) := by
  simp only [Part.seeStoreGood]
  split
  · exact .refl p
  · split
    · exact (Part.safe_supplyFalls _).after rfl
    · exact .of_ledger rfl

theorem Part.safe_seeInputs (p : Part) : p.Safe p.seeInputs :=
  ((p.safe_seePwarn _).trans (Part.safe_seeWinh _ _)).trans (Part.safe_seeStoreGood _ _)

theorem Part.safe_afterClear (p : Part) : p.Safe p.afterClear := by
  unfold Part.afterClear
  cases p.power.state with
  | active => exact .refl p
  | hold =>
    simp only
    split
    · exact p.safe_enterContained _
    · split
      · exact .refl p
      · exact p.safe_enterActive
  | brace =>
    simp only
    split
    · exact .refl p
    · split
      · exact p.safe_enterContained _
      · exact p.safe_enterActive
  | park => exact .refl p
  | stopped => exact .refl p

/-! ### The clear (R114, R185) -/

/-- The part as the clear's own effects leave it, before the power state after it is entered. -/
def Part.cleared (p : Part) : Part :=
  { p.clearOrders.clearRecord.clearScan.clearReclaim with bus.sticky := 0, power.clearPending := false }

theorem Part.clearNow_eq (p : Part) : p.clearNow = p.cleared.afterClear := rfl

theorem Part.clearOrders_dir (p : Part) : p.clearOrders.dir = p.dir := by
  have h : ∀ (slots : List SlotNo) (q : Part), (slots.foldl (fun q n => q.writePhase n abandonedByte) q).dir = q.dir := by
    intro slots
    induction slots with
    | nil => exact fun _ => rfl
    | cons n rest ih => exact fun q => (ih _).trans rfl
  exact h _ _

theorem Part.wf_clearOrders {p : Part} (hp : Mem.wf p.mem = true) : Mem.wf p.clearOrders.mem = true := by
  have h : ∀ (slots : List SlotNo) (q : Part), Mem.wf q.mem = true →
      Mem.wf (slots.foldl (fun q n => q.writePhase n abandonedByte) q).mem = true := by
    intro slots
    induction slots with
    | nil => exact fun _ hq => hq
    | cons n rest ih => exact fun q hq => ih _ (Part.wf_writePhase n _ hq)
  exact h _ _ hp

/-- Ending the units' work without an outcome leaves exchange memory, the directory and the order block. -/
theorem Part.clearUnits_eq (p : Part) :
    p.clearRecord.clearScan.clearReclaim.mem = p.mem ∧ p.clearRecord.clearScan.clearReclaim.dir = p.dir
      ∧ p.clearRecord.clearScan.clearReclaim.orders = p.orders ∧ p.clearRecord.clearScan.clearReclaim.record = none
      ∧ p.clearRecord.clearScan.clearReclaim.scan = none ∧ p.clearRecord.clearScan.clearReclaim.format = p.format := by
  have hrecord : p.clearRecord.mem = p.mem ∧ p.clearRecord.dir = p.dir ∧ p.clearRecord.orders = p.orders
      ∧ p.clearRecord.record = none ∧ p.clearRecord.format = p.format := by
    simp only [Part.clearRecord]
    split <;> exact ⟨rfl, rfl, rfl, rfl, rfl⟩
  have hscan : ∀ q : Part, q.clearScan.mem = q.mem ∧ q.clearScan.dir = q.dir ∧ q.clearScan.orders = q.orders
      ∧ q.clearScan.record = q.record ∧ q.clearScan.scan = none ∧ q.clearScan.format = q.format := by
    intro q
    simp only [Part.clearScan]
    split <;> exact ⟨rfl, rfl, rfl, rfl, rfl, rfl⟩
  have hreclaim : ∀ q : Part, q.clearReclaim.mem = q.mem ∧ q.clearReclaim.dir = q.dir ∧ q.clearReclaim.orders = q.orders
      ∧ q.clearReclaim.record = q.record ∧ q.clearReclaim.scan = q.scan ∧ q.clearReclaim.format = q.format := by
    intro q
    have hdrop : q.dropWalk.mem = q.mem ∧ q.dropWalk.dir = q.dir ∧ q.dropWalk.orders = q.orders
        ∧ q.dropWalk.record = q.record ∧ q.dropWalk.scan = q.scan ∧ q.dropWalk.format = q.format := by
      simp only [Part.dropWalk]
      split <;> exact ⟨rfl, rfl, rfl, rfl, rfl, rfl⟩
    exact hdrop
  simp [hrecord, hscan, hreclaim]

theorem Part.cleared_sound {p : Part} (h : p.Sound) : p.cleared.Sound := by
  obtain ⟨hmem, -, -, hdir⟩ := h
  obtain ⟨hmem', hdir', horders, -⟩ := p.clearOrders.clearUnits_eq
  refine ⟨?_, ?_, BitVec.zero_and, ?_⟩
  · exact (congrArg Mem.wf hmem').trans (Part.wf_clearOrders hmem)
  · exact (congrArg (fun o => o.postQueue.length) horders).le.trans (Nat.zero_le _)
  · exact (congrArg dirSorted (hdir'.trans p.clearOrders_dir)).trans hdir

theorem Part.cleared_slots (p : Part) : p.cleared.SlotsKept := by
  obtain ⟨-, -, horders, hrecord, hscan, hformat⟩ := p.clearOrders.clearUnits_eq
  have hunits : p.cleared.unitSlots = [] := by
    show (Option.map _ p.clearOrders.clearRecord.clearScan.clearReclaim.record).toList
      ++ (Option.map _ p.clearOrders.clearRecord.clearScan.clearReclaim.scan).toList ++ [] ++
        (Option.map _ p.clearOrders.clearRecord.clearScan.clearReclaim.format).toList = []
    rw [hrecord, hscan, hformat]
    rfl
  have horders' : p.cleared.orders = p.clearOrders.orders := horders
  have hslot : ∀ n, p.cleared.slot n = ⟨false, .idle⟩ := by
    intro n
    simp only [Part.slot, horders']
    exact Vector.getElem_replicate n.isLt
  refine ⟨?_, fun n => ?_⟩
  · simp [hunits, horders', Part.clearOrders]
  · simp [hslot, Part.slotEntryDue, hunits, horders', Part.clearOrders]

/-- The clear keeps the stored data's invariant. -/
theorem Part.clearNow_sound {p : Part} (h : p.Sound) : p.clearNow.Sound := p.cleared.safe_afterClear.sound (Part.cleared_sound h)

/-- After a clear the slot rule holds, whatever held before it: every slot is free. -/
theorem Part.clearNow_slots (p : Part) : p.clearNow.SlotsKept :=
  p.cleared.safe_afterClear.slots [] p.cleared_slots

/-- Both invariants, with no number on its way, are kept. -/
structure Part.Keeps (p q : Part) : Prop where
  sound : p.Sound → q.Sound
  slots : p.SlotsKept → q.SlotsKept

theorem Part.Safe.keeps {p q : Part} (h : p.Safe q) : p.Keeps q := ⟨h.sound, h.slots []⟩

theorem Part.Keeps.refl (p : Part) : p.Keeps p := ⟨id, id⟩

theorem Part.Keeps.trans {p q r : Part} (hpq : p.Keeps q) (hqr : q.Keeps r) : p.Keeps r :=
  ⟨fun h => hqr.sound (hpq.sound h), fun h => hqr.slots (hpq.slots h)⟩

theorem Part.Keeps.of_ledger {p q : Part} (h : q.ledger = p.ledger) : p.Keeps q := (Part.Safe.of_ledger h).keeps

theorem Part.keeps_takeClear (p : Part) : p.Keeps p.takeClear := by
  unfold Part.takeClear
  split
  · exact ⟨Part.clearNow_sound, fun _ => p.clearNow_slots⟩
  · exact .refl p

theorem Part.keeps_clearBeforeCut (p : Part) (v : Word) : p.Keeps (p.clearBeforeCut v) := by
  unfold Part.clearBeforeCut
  split
  · exact p.keeps_takeClear
  · exact .refl p

/-! ### Wake, stop and return (R183, R184) -/

theorem Part.safe_wakeSettles (p : Part) : p.Safe p.wakeSettles := by
  unfold Part.wakeSettles
  split
  · exact (Part.safe_afterPark _).after rfl
  · exact .refl p

theorem Part.safe_wakeExpires (p : Part) : p.Safe p.wakeExpires := by
  unfold Part.wakeExpires
  split
  · exact ((Part.safe_loseLanes _ _ _).trans (Part.safe_afterPark _)).after rfl
  · exact .refl p

theorem Part.releaseLink_ledger (p : Part) : p.releaseLink.ledger = p.ledger := by
  unfold Part.releaseLink
  split <;> rfl

theorem Part.safe_stopClock (p : Part) : p.Safe p.stopClock := by
  simp only [Part.stopClock]
  split
  · exact .of_ledger (Part.releaseLink_ledger _)
  · exact .of_ledger rfl

theorem Part.refreshErase_ledger (p : Part) : p.refreshErase.ledger = p.ledger := by
  have hslot : p.refreshErase.slot = p.slot := funext p.refreshErase_slot
  simp [Part.ledger, hslot]

theorem Part.safe_refreshErase (p : Part) : p.Safe p.refreshErase := .of_ledger p.refreshErase_ledger

theorem Part.Safe.act {f : Part → Part} {p : Part} (h : p.Safe (f p)) : p.Safe (p.act f) := by
  simp only [Part.act, Part.whenLive]
  split
  · exact h.trans (Part.safe_refreshErase _)
  · exact .refl p

theorem Part.Keeps.act {f : Part → Part} {p : Part} (h : p.Keeps (f p)) : p.Keeps (p.act f) := by
  simp only [Part.act, Part.whenLive]
  split
  · exact h.trans (Part.safe_refreshErase _).keeps
  · exact .refl p

theorem Part.safe_returnClock (p : Part) : p.Safe p.returnClock := by
  simp only [Part.returnClock]
  split
  · exact .refl p
  · split
    · exact .of_ledger rfl
    · exact (Part.Safe.act (Part.safe_seeInputs _)).after rfl

theorem Part.safe_beginWake (p : Part) : p.Safe p.beginWake := .of_ledger rfl

theorem Part.safe_backToPark (p : Part) : p.Safe p.backToPark := by
  have hseen := Part.safe_seeInputs { p with power.state := .park, power.returnCounting := false }
  simp only [Part.backToPark]
  split
  · exact hseen.after rfl
  · exact (hseen.trans (Part.safe_beginWake _)).after rfl

theorem Part.safe_returnEnds (p : Part) : p.Safe p.returnEnds := by
  unfold Part.returnEnds
  split
  · exact p.safe_backToPark.trans (Part.safe_refreshErase _)
  · exact .refl p

/-! ### Full reset (R186) -/

theorem Part.resetWith_sound {p : Part} (st : Straps) (h : p.Sound) : (p.resetWith st).Sound :=
  ⟨h.1, Nat.zero_le _, BitVec.zero_and, rfl⟩

theorem slot_replicate (n : SlotNo) (e : SlotEntry) : (Vector.replicate 32 e).get n = e := Vector.getElem_replicate n.isLt

theorem Part.resetWith_slots (p : Part) (st : Straps) : (p.resetWith st).SlotsKept :=
  ⟨List.nodup_nil, fun n => slot_replicate n _⟩

theorem Part.keeps_assertReset (p : Part) : p.Keeps p.assertReset :=
  ⟨fun h => (Part.resetWith_sound p.latched h :), fun _ => (p.resetWith_slots p.latched :)⟩

theorem Part.keeps_releaseReset (p : Part) (st : Straps) : p.Keeps (p.releaseReset st) := by
  have hreset : p.Keeps (p.resetWith st) := ⟨fun h => Part.resetWith_sound st h, fun _ => p.resetWith_slots st⟩
  unfold Part.releaseReset
  split
  · exact hreset.trans (Part.safe_seeInputs _).keeps.act
  · exact .refl p

theorem Part.safe_endZeroing (p : Part) : p.Safe p.endZeroing := by
  unfold Part.endZeroing
  split
  · exact ⟨fun ⟨_, hrest⟩ => ⟨rfl, hrest⟩, fun _ h => h⟩
  · exact .refl p

/-! ## Dispatch (R103 to R107) -/

/-- The part as a unit is handed the head order: the order's number is on its way. -/
theorem Part.startOrder_slots {p : Part} {n : SlotNo} {f : OrderFields} (hhead : p.headOrder = some (n, f))
    (h : p.SlotsKept) : (p.startOrder n).ledger.SlotsWith [n] := by
  obtain ⟨-, -, -, ⟨rest, hqueue⟩, -⟩ := Part.headOrder_some hhead
  have hrule : SlotRule p.slot (n :: rest) p.unitSlots p.orders.doneList := hqueue ▸ h
  have hslot : (p.startOrder n).slot = Function.update p.slot n ⟨true, .running⟩ := by
    funext m
    by_cases hm : m = n
    · subst hm; simp
    · simp [hm, Part.slot_startOrder_other]
  simpa [Ledger.SlotsWith, Part.ledger, hslot, hqueue, Part.unitSlots] using hrule.start

theorem Part.startOrder_sound {p : Part} (n : SlotNo) (h : p.Sound) : (p.startOrder n).Sound := by
  obtain ⟨hmem, hqueue, hrest⟩ := h
  refine ⟨Part.wf_startOrder n hmem, ?_, hrest⟩
  rw [Part.startOrder_postQueue, List.length_tail]
  omega

/-- Both invariants of an order handed to its unit: from its number on its way to its number where it comes. -/
structure Part.Takes (n : SlotNo) (p q : Part) : Prop where
  sound : p.Sound → q.Sound
  slots : p.ledger.SlotsWith [n] → q.SlotsKept

theorem Part.Takes.trans {n : SlotNo} {p q r : Part} (hpq : p.Takes n q) (hqr : q.Safe r) : p.Takes n r :=
  ⟨fun h => hqr.sound (hpq.sound h), fun h => hqr.slots [] (hpq.slots h)⟩

theorem Part.Safe.takes {n : SlotNo} {p q r : Part} (hpq : p.Safe q) (hqr : q.Takes n r) : p.Takes n r :=
  ⟨fun h => hqr.sound (hpq.sound h), fun h => hqr.slots (hpq.slots [n] h)⟩

theorem Part.takes_complete (p : Part) (n : SlotNo) (r : Result) : p.Takes n (p.complete n r) :=
  ⟨Part.complete_sound n r, Part.complete_slots r⟩

/-- A unit that was free holds the order. -/
theorem Part.Takes.of_held {n : SlotNo} {p q : Part} (hledger : q.ledger = { p.ledger with units := q.unitSlots })
    (hunits : q.unitSlots.Perm (n :: p.unitSlots)) : p.Takes n q := by
  refine ⟨fun h => ?_, fun h => ?_⟩
  · rw [Part.sound_iff] at h ⊢
    rwa [hledger]
  · rw [Part.slotsKept_iff, hledger]
    exact SlotRule.perm h hunits

theorem Part.takes_holdRecord {p : Part} (n : SlotNo) (f : OrderFields) (step : RecordStep) (h : p.record = none) :
    p.Takes n (p.holdRecord n f step) := by
  refine .of_held rfl ?_
  simp [Part.unitSlots, Part.holdRecord, h]

theorem Part.takes_requestAppend {p : Part} (n : SlotNo) (f : OrderFields) (r : OrderReq) (h : p.record = none) :
    p.Takes n (p.requestAppend n f r) := (Part.takes_holdRecord n f .waiting h).trans (.of_ledger rfl)

theorem Part.takes_takePut {p : Part} (n : SlotNo) (f : OrderFields) (h : p.record = none) : p.Takes n (p.takePut n f) := by
  simp only [Part.takePut]
  split
  · exact p.takes_complete n _
  · split
    · exact p.takes_complete n _
    · exact Part.takes_requestAppend n f _ h

theorem Part.takes_takeDrop {p : Part} (n : SlotNo) (f : OrderFields) (h : p.record = none) : p.Takes n (p.takeDrop n f) := by
  unfold Part.takeDrop
  split
  · exact p.takes_complete n _
  · split
    · exact p.takes_complete n _
    · split
      · exact p.takes_complete n _
      · exact Part.takes_requestAppend n f _ h

theorem Part.takes_takeGet {p : Part} (n : SlotNo) (f : OrderFields) (h : p.record = none) : p.Takes n (p.takeGet n f) := by
  unfold Part.takeGet
  split
  · exact p.takes_complete n _
  · split
    · exact p.takes_complete n _
    · split
      · exact p.takes_complete n _
      · exact (Part.takes_holdRecord n f _ h).trans ((Part.safe_readGet _ _).after rfl)

theorem Part.takes_takeSurvey (p : Part) (n : SlotNo) (f : OrderFields) : p.Takes n (p.takeSurvey n f) :=
  (p.safe_store _ _).takes (Part.takes_complete _ n _)

theorem Part.takes_takeScan {p : Part} (n : SlotNo) (f : OrderFields) (h : p.scan = none) : p.Takes n (p.takeScan n f) := by
  unfold Part.takeScan
  refine Part.Takes.trans (q := p.setScan _) (.of_held rfl ?_) (Part.safe_scanBoundary _)
  simp only [Part.unitSlots, Part.setScan, h, Option.map_some, Option.map_none, Option.toList_some, Option.toList_none,
    List.append_nil, List.append_assoc, List.singleton_append]
  exact List.perm_middle

theorem Part.takes_attach {p : Part} (n : SlotNo) (a : SegAddr) (h : p.reclaim.attached = none) : p.Takes n (p.attach n a) := by
  refine .of_held rfl ?_
  simp only [Part.unitSlots, Part.attach, h, Option.map_some, Option.map_none, Option.toList_some, Option.toList_none,
    List.append_nil, List.append_assoc, List.singleton_append]
  rw [← List.append_assoc, ← List.append_assoc]
  exact List.perm_middle

theorem Part.takes_evaluateForOrder {p : Part} (n : SlotNo) (h : p.reclaim.attached = none) :
    p.Takes n (p.evaluateForOrder n) := by
  unfold Part.evaluateForOrder
  split
  · exact (p.safe_toReclaim .idle).takes (Part.takes_complete _ n _)
  · exact ((p.safe_toReclaim .stalled).trans (Part.safe_raise _ _)).takes (Part.takes_complete _ n _)
  · exact p.safe_haltReclaim.takes (Part.takes_complete _ n _)
  · next a _ =>
    exact (p.safe_takeTail a .order).takes ((Part.takes_attach (p := p.takeTail a .order) n a h).trans (Part.safe_walk _))

theorem Part.takes_takeReclaim {p : Part} (n : SlotNo) (f : OrderFields) (h : p.reclaim.attached = none) :
    p.Takes n (p.takeReclaim n f) := by
  unfold Part.takeReclaim
  cases p.reclaim.state with
  | idle => exact Part.takes_evaluateForOrder n h
  | copying =>
    simp only
    split
    · exact Part.takes_attach n _ h
    · exact Part.takes_evaluateForOrder n h
  | stalled => exact p.takes_complete n _
  | halted => exact p.takes_complete n _

theorem Part.suspendReclaim_ledger (p : Part) : p.suspendReclaim.ledger = p.ledger :=
  (Part.toReclaim_ledger p.dropWalk .idle).trans p.dropWalk_ledger

theorem Part.takes_takeFormat {p : Part} (n : SlotNo) (f : OrderFields) (h : p.format = none) : p.Takes n (p.takeFormat n f) := by
  have hformat : p.suspendReclaim.format = none := by
    have hdrop : p.dropWalk.format = p.format := by
      simp only [Part.dropWalk]
      split <;> rfl
    simp only [Part.suspendReclaim, Part.toReclaim]
    split <;> exact hdrop.trans h
  unfold Part.takeFormat
  split
  · exact p.takes_complete n _
  · refine (Part.Safe.of_ledger p.suspendReclaim_ledger).takes (.of_held rfl ?_)
    simp only [Part.unitSlots, hformat, Option.map_some, Option.map_none, Option.toList_some, Option.toList_none,
      List.append_nil]
    exact List.perm_append_singleton n _

/-- A dispatch keeps both invariants when the unit it hands the order to does. -/
theorem Part.keeps_dispatch (p : Part) (kinds : Byte → Bool) (free : Part → Bool) (take : SlotNo → OrderFields → Part → Part)
    (h : ∀ n f, kinds f.kind = true → dispatchCheck p.mounted f = none → free p = true → p.format = none →
      (p.startOrder n).Takes n (take n f (p.startOrder n))) :
    p.Keeps (p.dispatch kinds free take) := by
  rcases p.dispatch_cases kinds free take with heq | ⟨n, f, hhead, hkind, hfree, htaken⟩
  · rw [heq]
    exact .refl p
  · have hformat := (Part.headOrder_some hhead).2.2.1
    have htakes : (p.startOrder n).Takes n (p.dispatch kinds free take) := by
      rcases htaken with ⟨why, -, heq⟩ | ⟨hcheck, heq⟩
      · rw [heq]
        exact Part.takes_complete _ n _
      · rw [heq]
        exact h n f hkind hcheck hfree hformat
    exact ⟨fun hsound => htakes.sound (Part.startOrder_sound n hsound),
      fun hslots => htakes.slots (Part.startOrder_slots hhead hslots)⟩

/-- An unknown kind fails the first check (R105). -/
theorem dispatchCheck_unknownKind (mounted : Bool) {f : OrderFields} (h : unknownKind f.kind = true) :
    dispatchCheck mounted f = some .badKind := by
  have hk : f.kind.toNat < 1 ∨ 7 < f.kind.toNat := by
    simp only [unknownKind, Bool.not_eq_true', Bool.and_eq_false_iff, decide_eq_false_iff_not] at h
    omega
  simp only [dispatchCheck, hk, if_true]

theorem Part.safe_takeTable (p : Part) : p.Safe p.takeTable := by
  unfold Part.takeTable
  split
  · exact .refl p
  · next job hjob =>
    have htables : p.Safe p.formatTables := (p.safe_dir fun _ => rfl).trans (.of_ledger rfl)
    split
    · exact .refl p
    · simp only
      split
      · exact htables.trans (Part.safe_endFormat (p := p.formatTables) hjob rfl)
      · exact htables.trans (Part.safe_setFormat (p := p.formatTables) hjob rfl)

/-! ## The bus port (R76 to R109) -/

/-- A served write keeps both invariants when its write effect does. -/
theorem Part.keeps_writeAccess (p : Part) (r : Reg) (d : Word) {effect : Word → Part → Part} (h : ∀ v, p.Keeps (effect v p)) :
    p.Keeps (p.writeAccess r d effect) := by
  unfold Part.writeAccess
  split
  · exact h _
  · exact .refl p

theorem Part.safe_storeRegister (p : Part) (r : PlainReg) (v : Word) : p.Safe (p.storeRegister r v) := by
  cases r <;> exact .of_ledger rfl

theorem Part.safe_unservedRead (p : Part) : p.Safe p.unservedRead := by
  rw [p.unservedRead_eq]
  exact .of_ledger rfl

/-- A read access keeps both invariants when its read does. -/
theorem Part.keeps_readAccess (p : Part) (r : Reg) {read : (Word → Word) → Part → Part} (h : ∀ place, p.Keeps (read place p)) :
    p.Keeps (p.readAccess r read) := by
  unfold Part.readAccess
  split
  · cases p.busMode with
    | word16 => exact h _
    | byte8 => exact h _
    | serial =>
      simp only
      split
      · exact h _
      · exact .of_ledger rfl
  · exact p.safe_unservedRead.keeps

theorem Part.safe_readData (p : Part) (place : Word → Word) : p.Safe (p.readData place) := .of_ledger rfl

theorem Part.safe_writeData (p : Part) (v : Word) : p.Safe (p.writeData v) := (p.safe_store _ _).trans (.of_ledger rfl)

theorem Part.noteAdjusted_ledger (p : Part) (v w : Nat) : (p.noteAdjusted v w).ledger = p.ledger := by
  unfold Part.noteAdjusted
  split
  · rfl
  · exact p.raise_ledger _

theorem Part.safe_takeWord (p : Part) (v : Word) : p.Safe (p.takeWord v) := by
  unfold Part.takeWord
  split
  · exact .of_ledger (Part.noteAdjusted_ledger _ _ _)
  · exact .of_ledger (Part.noteAdjusted_ledger _ _ _)
  · exact .of_ledger (Part.noteAdjusted_ledger _ _ _)
  · exact .refl p

theorem Part.safe_takeConfig (p : Part) (v : Word) : p.Safe (p.takeConfig v) := by
  simp only [Part.takeConfig]
  split
  · exact ((p.safe_takeWord v).trans (Part.safe_compareLow _)).trans (Part.safe_refreshErase _)
  · exact p.safe_takeWord v

theorem Part.keeps_acceptPost {p : Part} {n : SlotNo} (hheld : (p.slot n).held = false)
    (hroom : p.orders.postQueue.length < queueCapacity) : p.Keeps (p.acceptPost n) := by
  refine ⟨fun ⟨hmem, _, hrest⟩ => ⟨Part.wf_acceptPost n hmem, ?_, hrest⟩, fun h => ?_⟩
  · rw [Part.acceptPost_postQueue, List.length_append]
    exact hroom
  · have hslot : (p.acceptPost n).slot = Function.update p.slot n ⟨true, .queued⟩ := by
      funext m
      by_cases hm : m = n
      · subst hm; simp
      · simp [hm, Part.slot_acceptPost_other]
    have haccept := SlotRule.accept (p.slotsKept_iff.1 h) hheld
    rw [Part.slotsKept_iff, Ledger.SlotsWith, Part.ledger, hslot]
    exact haccept

theorem Part.safe_refusePost (p : Part) (o : PostOutcome) : p.Safe (p.refusePost o) := (Part.safe_raise _ _).after rfl

theorem Part.keeps_postSlot (p : Part) (v : Word) : p.Keeps (p.postSlot v) := by
  unfold Part.postSlot
  split
  · next hv =>
    simp only
    split
    · exact (p.safe_refusePost _).keeps
    · next hheld =>
      split
      · exact (p.safe_refusePost _).keeps
      · next hroom => exact Part.keeps_acceptPost (by simpa using hheld) (by omega)
  · exact (p.safe_refusePost _).keeps

theorem Part.keeps_takePost (p : Part) (v : Word) : p.Keeps (p.takePost v) := by
  unfold Part.takePost
  split
  · exact p.keeps_postSlot v
  · exact (p.safe_takeConfig v).keeps

theorem Part.keeps_takeSlot (p : Part) : p.Keeps p.takeSlot := by
  cases hdone : p.orders.doneList with
  | nil =>
    rw [Part.takeSlot_nil hdone]
    exact .refl p
  | cons n rest =>
    rw [Part.takeSlot_cons hdone]
    refine ⟨id, fun h => ?_⟩
    have hrule : SlotRule p.slot p.orders.postQueue p.unitSlots (n :: rest) := hdone ▸ h
    rw [Part.slotsKept_iff, Ledger.SlotsWith, Part.ledger, Part.slot_setSlot]
    exact hrule.take

theorem Part.keeps_lowByteOf (p : Part) (r : Reg) : p.Keeps (p.lowByteOf r) := by
  have hcaptured : p.Keeps ({ p with bus.readCapture := highByte (p.readRegister r) }.drive
      (some ((lowByte (p.readRegister r)).setWidth 16))) := .of_ledger rfl
  simp only [Part.lowByteOf]
  split
  · exact hcaptured.trans (Part.keeps_takeSlot _)
  · exact hcaptured

theorem Part.keeps_readTake (p : Part) (place : Word → Word) : p.Keeps (p.readTake place) := by
  unfold Part.readTake
  split
  · exact (Part.Keeps.of_ledger (p := p) (q := p.drive (some (place p.takeValue))) rfl).trans (Part.keeps_takeSlot _)
  · exact p.keeps_lowByteOf _

theorem Part.safe_writeNotice (p : Part) (v : Word) : p.Safe (p.writeNotice v) := by
  refine ⟨fun ⟨hmem, hqueue, hflag, hdir⟩ => ⟨hmem, hqueue, ?_, hdir⟩, fun _ h => h⟩
  have hand : ∀ a b : Byte, a &&& 1 = 0 → a &&& b &&& 1 = 0 := by
    intro a b h
    rw [BitVec.and_assoc, BitVec.and_comm b, ← BitVec.and_assoc, h]
    exact BitVec.zero_and
  exact hand _ _ hflag

/-! ## Every command (R96) -/

/-- A command that is a change of the part keeps both invariants when the change does. -/
def KeepsInvariants (c : Instr) : Prop := ∀ s t : State, exec c s = .next t → s.part.Keeps t.part

theorem keepsInvariants_of_run {c : Instr} {f : Part → Part} (hexec : ∀ s, exec c s = run f s)
    (h : ∀ p : Part, p.Keeps (f p)) : KeepsInvariants c := by
  intro s t ht
  rw [hexec s] at ht
  cases ht
  exact h s.part

/-- An event inside the part keeps both invariants when what it does is safe. -/
theorem keepsInvariants_of_act {c : Instr} {f : Part → Part} (hexec : ∀ s, exec c s = run (Part.act f) s)
    (h : ∀ p : Part, p.Safe (f p)) : KeepsInvariants c :=
  keepsInvariants_of_run hexec fun p => (h p).act.keeps

/-- A dispatch row keeps both invariants when the unit it hands the order to does. -/
theorem keepsInvariants_of_dispatch {c : Instr} {kinds : Byte → Bool} {free : Part → Bool}
    {take : SlotNo → OrderFields → Part → Part} (hexec : ∀ s, exec c s = run (Part.act (Part.dispatch kinds free take)) s)
    (h : ∀ (p : Part) n f, kinds f.kind = true → dispatchCheck p.mounted f = none → free p = true → p.format = none →
      (p.startOrder n).Takes n (take n f (p.startOrder n))) :
    KeepsInvariants c :=
  keepsInvariants_of_run hexec fun p => (p.keeps_dispatch kinds free take (h p)).act

/-- A change of an input pin keeps both invariants when seeing it does. -/
theorem keepsInvariants_of_pin {c : Instr} {pin see : Part → Part} (hexec : ∀ s, exec c s = run (Part.pinEvent pin see) s)
    (hpin : ∀ p : Part, (pin p).ledger = p.ledger) (hsee : ∀ p : Part, p.Safe (see p)) : KeepsInvariants c :=
  keepsInvariants_of_run hexec fun p => ((hsee (pin p)).act.after (hpin p)).keeps

/-- A CONTROL row keeps both invariants when what it does with the value written does. -/
theorem keepsInvariants_of_control {c : Instr} {d : Word} {f : Word → Part → Part}
    (hexec : ∀ s, exec c s = run (Part.writeAccess .control d fun v p => (f v p).refreshErase) s)
    (h : ∀ v (p : Part), p.Keeps (f v p)) : KeepsInvariants c :=
  keepsInvariants_of_run hexec fun p => p.keeps_writeAccess _ d fun v => (h v p).trans (Part.safe_refreshErase _).keeps

theorem keepsInvariants_readLineEnd (l : Lane) (bytes : List Byte) : KeepsInvariants (.readLineEnd l bytes) := by
  intro s t ht
  change execReadLineEnd l bytes s = _ at ht
  unfold execReadLineEnd at ht
  split at ht
  · cases ht
    exact (Part.safe_readEnds _ l bytes).act.keeps
  · exact absurd ht (by simp)

theorem Part.keeps_dataWrite (p : Part) (d : Word) :
    p.Keeps (if p.served && p.busMode == .byte8 then p.writeData d else p.writeAccess .data d Part.writeData) := by
  split
  · exact (p.safe_writeData d).keeps
  · exact p.keeps_writeAccess _ d fun v => (p.safe_writeData v).keeps

theorem Part.keeps_lowByteRead (p : Part) (r : ByteReg) :
    p.Keeps (if p.busMode == .byte8 then (if p.served then p.lowByteOf (regOfByte r) else p.unservedRead) else p) := by
  split
  · split
    · exact p.keeps_lowByteOf _
    · exact p.safe_unservedRead.keeps
  · exact .refl p

theorem Part.safe_lowByteWrite (p : Part) (b : Byte) :
    p.Safe (if p.served && p.busMode == .byte8 then { p with bus.writeHold := b } else p) := by
  split
  · exact .of_ledger rfl
  · exact .refl p

theorem Part.safe_beginTransaction (p : Part) : p.Safe p.beginTransaction := by
  unfold Part.beginTransaction
  split
  · exact .of_ledger rfl
  · exact .refl p

theorem Part.safe_takeStart (p : Part) (b : Byte) : p.Safe (p.takeStart b) := by
  unfold Part.takeStart
  split
  · exact .of_ledger rfl
  · exact .refl p

theorem Part.safe_settled (p : Part) : p.Safe (if p.mount.settle then p.startMount else p) := by
  split
  · exact p.safe_startMount
  · exact .refl p

/-- Every command keeps both invariants. -/
theorem exec_keepsInvariants (c : Instr) : KeepsInvariants c := by
  cases c with
  | resetAssert => exact keepsInvariants_of_run (fun _ => rfl) Part.keeps_assertReset
  | resetRelease st => exact keepsInvariants_of_run (fun _ => rfl) fun p => p.keeps_releaseReset st
  | zeroingEnd => exact keepsInvariants_of_act (fun _ => rfl) Part.safe_endZeroing
  | registerWrite r d =>
    exact keepsInvariants_of_run (fun _ => rfl) fun p => p.keeps_writeAccess _ d fun v => (p.safe_storeRegister r v).keeps
  | lowByteWrite r b => exact keepsInvariants_of_run (fun _ => rfl) fun p => (p.safe_lowByteWrite b).keeps
  | dataRead => exact keepsInvariants_of_run (fun _ => rfl) fun p => p.keeps_readAccess _ fun place => (p.safe_readData place).keeps
  | dataWrite d => exact keepsInvariants_of_run (fun _ => rfl) fun p => p.keeps_dataWrite d
  | post d => exact keepsInvariants_of_run (fun _ => rfl) fun p => p.keeps_writeAccess _ d p.keeps_takePost
  | take => exact keepsInvariants_of_run (fun _ => rfl) fun p => p.keeps_readAccess _ p.keeps_readTake
  | hold d =>
    exact keepsInvariants_of_control (fun _ => rfl) fun v p =>
      (((p.safe_controlLevels v).trans (Part.safe_controlClear _ v)).trans (Part.safe_controlCut _ v)).keeps
  | park d =>
    exact keepsInvariants_of_control (fun _ => rfl) fun v p =>
      (((p.safe_controlLevels v).trans (Part.safe_controlCut _ v)).trans (Part.safe_controlClear _ v)).keeps
  | clear d =>
    exact keepsInvariants_of_control (fun _ => rfl) fun v p =>
      (((p.safe_controlClear v).trans (Part.safe_controlLevels _ v)).keeps.trans (Part.keeps_clearBeforeCut _ v)).trans
        (Part.safe_controlCut _ v).keeps
  | cut d =>
    exact keepsInvariants_of_control (fun _ => rfl) fun v p =>
      (((p.safe_controlCut v).trans (Part.safe_controlLevels _ v)).trans (Part.safe_controlClear _ v)).keeps
  | noticeWrite d =>
    exact keepsInvariants_of_run (fun _ => rfl) fun p => p.keeps_writeAccess _ d fun v => (p.safe_writeNotice v).keeps
  | clearTakesEffect => exact keepsInvariants_of_run (fun _ => rfl) fun p => p.keeps_takeClear.act
  | pwarnAssert => exact keepsInvariants_of_pin (fun _ => rfl) (fun _ => rfl) fun p => p.safe_seePwarn true
  | pwarnDeassert => exact keepsInvariants_of_pin (fun _ => rfl) (fun _ => rfl) fun p => p.safe_seePwarn false
  | winhAssert => exact keepsInvariants_of_pin (fun _ => rfl) (fun _ => rfl) fun p => p.safe_seeWinh true
  | winhDeassert => exact keepsInvariants_of_pin (fun _ => rfl) (fun _ => rfl) fun p => p.safe_seeWinh false
  | storeGoodRise => exact keepsInvariants_of_pin (fun _ => rfl) (fun _ => rfl) fun p => p.safe_seeStoreGood true
  | storeGoodFall => exact keepsInvariants_of_pin (fun _ => rfl) (fun _ => rfl) fun p => p.safe_seeStoreGood false
  | storeGoodSettled => exact keepsInvariants_of_act (fun _ => rfl) Part.safe_settled
  | laneGrant l => exact keepsInvariants_of_act (fun _ => rfl) fun p => p.safe_grantLane l
  | identifyEnd l lo hi => exact keepsInvariants_of_act (fun _ => rfl) fun p => p.safe_identifyEnds l lo hi
  | readLineEnd l bytes => exact keepsInvariants_readLineEnd l bytes
  | programLineEnd l status => exact keepsInvariants_of_act (fun _ => rfl) fun p => p.safe_programLineEnds l status
  | eraseSegmentEnd l status => exact keepsInvariants_of_act (fun _ => rfl) fun p => p.safe_eraseLineEnds l status
  | timeLimitExpiry l => exact keepsInvariants_of_act (fun _ => rfl) fun p => p.safe_limitExpires l
  | put =>
    exact keepsInvariants_of_dispatch (fun _ => rfl) fun p n f _ _ hfree _ =>
      Part.takes_takePut n f (by simpa [Part.recordFree] using hfree)
  | get =>
    exact keepsInvariants_of_dispatch (fun _ => rfl) fun p n f _ _ hfree _ =>
      Part.takes_takeGet n f (by simpa [Part.recordFree] using hfree)
  | drop =>
    exact keepsInvariants_of_dispatch (fun _ => rfl) fun p n f _ _ hfree _ =>
      Part.takes_takeDrop n f (by simpa [Part.recordFree] using hfree)
  | scan =>
    exact keepsInvariants_of_dispatch (fun _ => rfl) fun p n f _ _ hfree _ =>
      Part.takes_takeScan n f (by simpa [Part.scanFree] using hfree)
  | reclaim =>
    exact keepsInvariants_of_dispatch (fun _ => rfl) fun p n f _ _ hfree _ =>
      Part.takes_takeReclaim n f (by simpa [Part.reclaimFree] using hfree)
  | format =>
    exact keepsInvariants_of_dispatch (fun _ => rfl) fun p n f _ _ _ hformat =>
      Part.takes_takeFormat n f (by simpa using hformat)
  | survey => exact keepsInvariants_of_dispatch (fun _ => rfl) fun p n f _ _ _ _ => Part.takes_takeSurvey _ n f
  | badKind =>
    exact keepsInvariants_of_dispatch (fun _ => rfl) fun p n f hkind hcheck _ _ =>
      absurd hcheck (by rw [dispatchCheck_unknownKind _ hkind]; simp)
  | orderAppendGrant => exact keepsInvariants_of_act (fun _ => rfl) Part.safe_grantOrder
  | copyGrant => exact keepsInvariants_of_act (fun _ => rfl) Part.safe_grantCopy
  | formatTakeTable => exact keepsInvariants_of_act (fun _ => rfl) Part.safe_takeTable
  | quietReached => exact keepsInvariants_of_act (fun _ => rfl) Part.safe_watchQuiet
  | wakeSettled => exact keepsInvariants_of_act (fun _ => rfl) Part.safe_wakeSettles
  | wakeLimit => exact keepsInvariants_of_act (fun _ => rfl) Part.safe_wakeExpires
  | clockStop => exact keepsInvariants_of_run (fun _ => rfl) fun p => p.safe_stopClock.keeps
  | clockReturn => exact keepsInvariants_of_run (fun _ => rfl) fun p => p.safe_returnClock.keeps
  | returnCountEnd => exact keepsInvariants_of_run (fun _ => rfl) fun p => p.safe_returnEnds.keeps
  | entryBoundary => exact keepsInvariants_of_act (fun _ => rfl) Part.safe_scanBoundary
  | lowByteRead r => exact keepsInvariants_of_run (fun _ => rfl) fun p => p.keeps_lowByteRead r
  | transactionStart => exact keepsInvariants_of_run (fun _ => rfl) fun p => p.safe_beginTransaction.keeps
  | startByte b => exact keepsInvariants_of_run (fun _ => rfl) fun p => (p.safe_takeStart b).keeps
  | transactionEnd =>
    exact keepsInvariants_of_run (f := fun p => { p with bus.serial := .idle }) (fun _ => rfl) fun _ => .of_ledger rfl

/-- A step keeps both invariants: it runs the front command, or nothing waits and the part idles. -/
theorem step_keeps {s t : State} (h : step s = .next t) : s.part.Keeps t.part := by
  unfold step at h
  split at h
  · cases h
    exact .refl _
  · next c rest _ => exact exec_keepsInvariants c { s with pending := rest } t h

/-- Settles O4, by what every command does to the ledger. -/
theorem stepKeepsSound : Obligations.StepKeepsSound := fun _ _ hs hstep => (step_keeps hstep).sound hs

/-- Settles O5, by what every command does to the ledger: a slot number moves from one collection to another with its entry. -/
theorem stepKeepsSlots : Obligations.StepKeepsSlots := fun _ _ hs hstep => (step_keeps hstep).slots hs

end Sys2Proof.Machine
end

section
/-! SUPPORT. The machine and its reset (R86, R186): a step, the answer of every command, the fall and the release of RESET_N and the
end of the zeroing. -/

namespace Sys2Proof.Machine

/-- Settles O1, by the two cases of the queue. -/
theorem stepTakesFrontOrIdles : Obligations.StepTakesFrontOrIdles :=
  ⟨fun _ _ _ => rfl, fun s h => by simp only [step, h]⟩

/-- A command that is a change of the part answers next and leaves the queue. -/
theorem answers_of_run {c : Instr} {s : State} {f : Part → Part} (hexec : exec c s = run f s) :
    ∃ t, exec c s = .next t ∧ t.pending = s.pending := ⟨_, hexec, rfl⟩

theorem execReadLineEnd_of_length {l : Lane} {bytes : List Byte} (s : State) (h : bytes.length = lineLength) :
    exec (.readLineEnd l bytes) s = run (Part.act (Part.readEnds l bytes)) s := by
  show execReadLineEnd l bytes s = _
  rw [execReadLineEnd, if_pos h]

/-- Settles O2: every row is a change of the part but READ_LINE_END, which is one exactly for the 256 bytes of a line. -/
theorem everyCommandAnswers : Obligations.EveryCommandAnswers := by
  refine ⟨fun c s hwf => ?_, fun l bytes s hlength => ?_⟩
  · cases c with
    | readLineEnd l bytes => exact answers_of_run (execReadLineEnd_of_length s (by simpa [Instr.wf] using hwf))
    | dataWrite d => exact answers_of_run (show execDataWrite d s = _ from rfl)
    | transactionEnd => exact answers_of_run (show execTransactionEnd s = _ from rfl)
    | _ => exact answers_of_run rfl
  · show execReadLineEnd l bytes s = _
    exact if_neg hlength

/-- Settles O3: after reset memory, queue and directory are empty and every slot is free. -/
theorem resetMeetsInvariants : Obligations.ResetMeetsInvariants :=
  ⟨⟨rfl, Nat.zero_le _, BitVec.zero_and, rfl⟩, List.nodup_nil, fun n => slot_replicate n _⟩

/-- Settles O6, field by field of the part at its reset values. -/
theorem resetAssertHoldsReset : Obligations.ResetAssertHoldsReset := fun _ =>
  ⟨_, rfl, rfl, rfl, rfl, rfl, rfl, rfl, rfl, rfl, rfl, rfl, rfl, rfl, rfl, rfl, rfl, rfl, rfl⟩

/-! ## The release of RESET_N (R186) -/

theorem Part.lane_resetWith (p : Part) (st : Straps) (l : Lane) : (p.resetWith st).lane l = LaneRec.reset := by
  fin_cases l <;> rfl

/-- With no segment in the table and no erase request waiting there is nothing to bring up to date. -/
theorem Part.refreshLane_empty {p : Part} {l : Lane} (hsegs : p.segs.get l = []) (hlane : p.lane l = LaneRec.reset) :
    p.refreshLane l = p := by
  have hstands : p.eraseStands l = false := by simp [Part.eraseStands, hlane, LaneRec.reset, Waiting.empty]
  have hchoice : p.eraseChoice l = none := by simp [Part.eraseChoice, hsegs, addrsFrom]
  simp [Part.refreshLane, hstands, hchoice, hlane, LaneRec.flier, LaneRec.reset, Waiting.empty]

theorem Part.refreshErase_empty {p : Part} (hsegs : p.segs = Quad.all []) (hlanes : p.lanes = Quad.all LaneRec.reset) :
    p.refreshErase = p := by
  have hlane : ∀ l, p.refreshLane l = p := fun l =>
    Part.refreshLane_empty (by rw [hsegs]; fin_cases l <;> rfl) (by rw [Part.lane, hlanes]; fin_cases l <;> rfl)
  simp only [Part.refreshErase, hlane]

/-- The part after a release with the clock running, its inputs seen as they stand: a power warning brings it to BRACE, quiet with
nothing in flight. -/
def Part.releasedAs (p : Part) (st : Straps) : Part :=
  { Part.reset st with
    pins := p.pins, mem := p.mem, freeIndex := p.freeIndex,
    bus.serial := p.bus.serial.afterReset, bus.sticky := if p.pins.pwarn then 0x40 else 0,
    seen := p.pins, power.state := if p.pins.pwarn then .brace else .active, power.quietSeen := p.pins.pwarn }

theorem Part.resetWith_running {p : Part} (st : Straps) (h : p.power.clockRunning = true) :
    p.resetWith st = { Part.reset st with
      pins := p.pins, mem := p.mem, freeIndex := p.freeIndex, bus.serial := p.bus.serial.afterReset } := by
  simp only [Part.resetWith, h]
  rfl

/-- A power warning seen right after a release (R179, R181). -/
theorem Part.seePwarn_reset {p : Part} (hstate : p.power.state = .active) (hpark : p.power.parkPending = false)
    (happend : p.head.append = none) (hlanes : p.lanesIdle = true) (level : Bool) (hquiet : p.power.quietSeen = false)
    (hsticky : p.bus.sticky = 0) :
    p.seePwarn level = { p with
      seen.pwarn := level, power.state := if level then .brace else .active, power.quietSeen := level,
      bus.sticky := if level then 0x40 else 0 } := by
  cases level with
  | false =>
    simp only [Part.seePwarn, hstate, Bool.false_eq_true, if_false]
    simp only [← hstate, ← hquiet, ← hsticky]
  | true =>
    simp [Part.seePwarn, hstate, Part.enterContained, Part.requestSetBack, happend, Part.watchQuiet, Part.contained, Part.quiet,
      show p.lanes.toList.all (·.inFlight.isNone) = true from hlanes, Part.noteQuiet, hpark, Part.raise, Sticky.bit, hsticky]

/-- The inputs seen as they stand right after a release: STORE_GOOD starts no count before the zeroing has ended. -/
theorem Part.seeInputs_resetWith {p : Part} (st : Straps) (h : p.power.clockRunning = true) :
    (p.resetWith st).seeInputs = p.releasedAs st := by
  rw [Part.resetWith_running st h, Part.seeInputs, Part.seePwarn_reset rfl rfl rfl rfl _ rfl rfl]
  rcases hpins : p.pins with ⟨pwarn, winh, storeGood⟩
  simp only [Part.releasedAs, hpins]
  cases pwarn <;> cases winh <;> cases storeGood <;> rfl

theorem exec_resetRelease_running {s : State} (st : Straps) (hlow : s.part.power.resetLow = true)
    (hclock : s.part.power.clockRunning = true) :
    exec (.resetRelease st) s = .next (s.withPart (s.part.resetWith st).seeInputs.refreshErase) := by
  have hlive : (s.part.resetWith st).live = true := by
    simp [Part.live, Part.resetWith, Power.reset, hclock]
  show run (Part.releaseReset st) s = _
  rw [run_next, Part.releaseReset, if_pos hlow, act_of_live hlive]
  rfl

theorem Part.refreshErase_releasedAs (p : Part) (st : Straps) : (p.releasedAs st).refreshErase = p.releasedAs st :=
  Part.refreshErase_empty rfl rfl

theorem exec_resetRelease_stopped {s : State} (st : Straps) (hlow : s.part.power.resetLow = true)
    (hclock : s.part.power.clockRunning = false) :
    exec (.resetRelease st) s = .next (s.withPart (s.part.resetWith st)) := by
  have hlive : (s.part.resetWith st).live = false := by
    simp [Part.live, Part.resetWith, Power.reset, hclock]
  show run (Part.releaseReset st) s = _
  rw [run_next, Part.releaseReset, if_pos hlow, act_of_not_live hlive]
  rfl

theorem exec_resetRelease_high {s : State} (st : Straps) (hlow : s.part.power.resetLow = false) :
    exec (.resetRelease st) s = .next s := by
  show run (Part.releaseReset st) s = _
  rw [run_next, Part.releaseReset, if_neg (by simp [hlow])]

/-- What the release leaves in the configuration words, by the source strapped (R101). -/
theorem orders_reset_words (cfgSel : BitVec 2) :
    ((Orders.reset cfgSel).intake = .ended ↔ cfgSel ≠ 3)
      ∧ (cfgSel = 0 → (Orders.reset cfgSel).lowMark = 4 ∧ (Orders.reset cfgSel).highMark = 8 ∧ (Orders.reset cfgSel).postMark = 12)
      ∧ (cfgSel = 1 → (Orders.reset cfgSel).lowMark = 8 ∧ (Orders.reset cfgSel).highMark = 16 ∧ (Orders.reset cfgSel).postMark = 12)
      ∧ (cfgSel = 2 → (Orders.reset cfgSel).lowMark = 2 ∧ (Orders.reset cfgSel).highMark = 4 ∧ (Orders.reset cfgSel).postMark = 8)
      ∧ (cfgSel = 3 → (Orders.reset cfgSel).lowMark = 0 ∧ (Orders.reset cfgSel).highMark = 0
          ∧ (Orders.reset cfgSel).postMark = 0) := by
  refine ⟨?_, ?_, ?_, ?_, ?_⟩
  · simp only [Orders.reset]
    split <;> simp_all
  all_goals
    rintro rfl
    exact ⟨rfl, rfl, rfl⟩

/-- Settles O7: the release as the inputs seen on the reset values, the comparison of the two by the levels of the inputs, and the
reset values block by block. -/
theorem fullReset : Obligations.FullReset := by
  refine ⟨fun s st hlow hclock hpins => ?_, fun s st => ⟨fun hlow hclock => ⟨?_, ?_⟩, fun hlow hclock => ?_,
    exec_resetRelease_high st⟩, fun st => ?_⟩
  · rw [exec_resetRelease_running st hlow hclock, Part.seeInputs_resetWith st hclock, Part.refreshErase_releasedAs]
    simp only [Part.releasedAs, hpins]
    rfl
  · rw [exec_resetRelease_running st hlow hclock, Part.resetWith_running st hclock]
  · rw [exec_resetRelease_running st hlow hclock, Part.seeInputs_resetWith st hclock, Part.refreshErase_releasedAs]
    rfl
  · rw [exec_resetRelease_stopped st hlow hclock]
    simp only [Part.resetWith, hclock]
    rfl
  · obtain ⟨hintake, hA, hB, hC, hD⟩ := orders_reset_words st.cfgSel
    have hflags : (Part.reset st).noticeFlags = 0 := BitVec.zero_or
    exact ⟨rfl, rfl, rfl, rfl, rfl, rfl, rfl, rfl, hflags, rfl, by simp [Part.attn, hflags], rfl, rfl, rfl, rfl,
      fun n => slot_replicate n _, rfl, rfl, rfl, hintake, hA, hB, hC, hD, rfl, rfl, rfl, rfl, rfl, rfl, rfl, rfl,
      fun l => by fin_cases l <;> exact ⟨rfl, rfl, rfl, rfl, rfl⟩, rfl, rfl, rfl, rfl, rfl, rfl, rfl, rfl⟩

/-! ## The end of the zeroing (R86) -/

/-- Settles O8: the empty memory reads 00hex, and the settle count starts where STORE_GOOD is seen. -/
theorem zeroingEndServes : Obligations.ZeroingEndServes := by
  intro s hlive hzeroing hwaiting hpark
  have hexec : exec .zeroingEnd s = .next { s with
      part := ({ s.part with mem := [], zeroing := false } : Part).startSettle.refreshErase } := by
    show run (Part.act Part.endZeroing) s = _
    rw [run_next, act_of_live hlive, Part.endZeroing, if_pos hzeroing]
  have hlive' : ({ s.part with mem := [], zeroing := false } : Part).startSettle.live = true := hlive
  have hstopped : s.part.power.state ≠ .stopped := by
    simp only [Part.live, Bool.and_eq_true, bne_iff_ne] at hlive
    exact hlive.2
  refine ⟨_, hexec, fun a => ?_, ?_, ?_, ?_⟩
  · simp [State.byte, Part.startSettle, Mem.read]
  · rw [Part.refreshErase_served, Part.served, hlive']
    rfl
  · simp [Part.startSettle, Part.mountMaySettle, hwaiting, hpark, hstopped]
  · simp [Part.startSettle]

end Sys2Proof.Machine
end

section
/-! SUPPORT. The host's accesses in the three bus modes, served and not (R76 to R87, R92, R186). -/

namespace Sys2Proof.Machine

/-! ## Words and their halves -/

theorem wordOf_eq_append (high low : Byte) : wordOf high low = high ++ low := rfl

/-- Exchanging the halves of a word turns it by eight bits (R78). -/
theorem swapBytes_eq_rotateLeft (d : Word) : swapBytes d = d.rotateLeft 8 := by
  rw [swapBytes, wordOf_eq_append, lowByte_eq_extractLsb', highByte_eq_extractLsb']
  refine BitVec.eq_of_getLsbD_eq fun i hi => ?_
  rw [BitVec.getLsbD_append, BitVec.getLsbD_rotateLeft]
  by_cases h : i < 8
  · simp [h]
  · have h8 : i - 8 < 8 := by omega
    simp [h, hi, h8]

theorem Part.placed_eq (p : Part) (d : Word) : p.placed d = if p.bus.byteOrd then d.rotateLeft 8 else d := by
  rw [Part.placed, swapBytes_eq_rotateLeft]

/-- The low half of a word, driven on D[7:0]. -/
theorem lowByte_setWidth (v : Word) : (lowByte v).setWidth 16 = v &&& 0xFF := by
  refine BitVec.eq_of_getLsbD_eq fun i hi => ?_
  have hmask : ∀ j : Fin 16, (0xFF : Word).getLsbD j = decide (j.val < 8) := by decide
  simp only [lowByte, BitVec.getLsbD_setWidth, BitVec.getLsbD_and, hmask ⟨i, hi⟩, hi, decide_true, Bool.true_and]
  exact Bool.and_comm _ _

theorem setWidth_eq_and_mask (v : Word) : (v.setWidth 15).setWidth 16 = v &&& 0x7FFF := by
  refine BitVec.eq_of_getLsbD_eq fun i hi => ?_
  have hmask : ∀ j : Fin 16, (0x7FFF : Word).getLsbD j = decide (j.val < 15) := by decide
  simp only [BitVec.getLsbD_setWidth, BitVec.getLsbD_and, hmask ⟨i, hi⟩, hi, decide_true, Bool.true_and]
  exact Bool.and_comm _ _

/-! ## Writes (R76 to R81) -/

theorem Part.busMode_iff (p : Part) :
    (p.busMode = .word16 ↔ p.bus.busSel = 0 ∨ p.bus.busSel = 3) ∧ (p.busMode = .byte8 ↔ p.bus.busSel = 1)
      ∧ (p.busMode = .serial ↔ p.bus.busSel = 2) := by
  have hcases : ∀ b : BitVec 2, b = 0 ∨ b = 1 ∨ b = 2 ∨ b = 3 := by decide
  unfold Part.busMode
  rcases hcases p.bus.busSel with h | h | h | h <;> simp [h]

theorem Part.writeValue_unserved {p : Part} (r : Reg) (d : Word) (h : p.served = false) : p.writeValue r d = none := by
  simp [Part.writeValue, h]

/-- Settles O10, mode by mode. -/
theorem writeValueForms : Obligations.WriteValueForms := by
  intro p r d
  obtain ⟨hword, hbyte, hserial⟩ := p.busMode_iff
  refine ⟨hword, hbyte, hserial, Part.writeValue_unserved r d, fun hs => ⟨fun hm hord => ?_, fun hm hord => ?_, fun hm => ?_,
    fun hm hframed => ?_, fun hm hframed => ?_⟩⟩
  · simp [Part.writeValue, hs, hm, Part.placed, hord]
  · simp [Part.writeValue, hs, hm, Part.placed_eq, hord]
  · simp [Part.writeValue, hs, hm, wordOf_eq_append, lowByte_eq_extractLsb']
  · simp [Part.writeValue, hs, hm, Part.frames, hframed]
  · simp [Part.writeValue, hs, hm, Part.frames, hframed]

theorem exec_registerWrite {s : State} {r : PlainReg} {d v : Word} (h : s.part.writeValue (regOfPlain r) d = some v) :
    exec (.registerWrite r d) s = .next { s with part := s.part.storeRegister r v } := by
  show run (Part.writeAccess (regOfPlain r) d (Part.storeRegister r)) s = _
  simp [run_next, Part.writeAccess, h]

/-- Settles O11: what is stored is the low fifteen bits, and a write to TAKE stores nothing, served or not. -/
theorem registerWriteStores : Obligations.RegisterWriteStores := by
  refine fun s d v => ⟨fun hv => ?_, fun hv => ?_, fun hv => ?_, ?_⟩
  · exact ⟨_, exec_registerWrite (r := .pointer) hv, by rw [← BitVec.setWidth_eq_extractLsb' (by omega)]; rfl, setWidth_eq_and_mask v⟩
  · exact ⟨_, exec_registerWrite (r := .winStart) hv, by rw [← BitVec.setWidth_eq_extractLsb' (by omega)]; rfl, setWidth_eq_and_mask v⟩
  · exact ⟨_, exec_registerWrite (r := .winEnd) hv, by rw [← BitVec.setWidth_eq_extractLsb' (by omega)]; rfl, setWidth_eq_and_mask v⟩
  · show run (Part.writeAccess .take d (Part.storeRegister .take)) s = _
    rw [run_next, Part.writeAccess]
    split <;> rfl

/-! ## Low-byte accesses (R79) -/

theorem exec_lowByteRead_served {s : State} (r : ByteReg) (hs : s.part.served = true) (hm : s.part.busMode = .byte8) :
    exec (.lowByteRead r) s = .next { s with part := s.part.lowByteOf (regOfByte r) } := by
  show execLowByteRead r s = _
  simp [execLowByteRead, run_next, hs, hm]

/-- A low-byte read of a register other than TAKE has no read effect. -/
theorem Part.lowByteOf_plain (p : Part) {r : Reg} (h : r ≠ .take) :
    p.lowByteOf r = { p with
      bus.readCapture := highByte (p.readRegister r), bus.dataOut := some (p.readRegister r &&& 0xFF) } := by
  simp only [Part.lowByteOf, if_neg h, lowByte_setWidth]
  rfl

theorem Part.lowByteOf_take (p : Part) :
    p.lowByteOf .take = ({ p with
      bus.readCapture := highByte p.takeValue, bus.dataOut := some (p.takeValue &&& 0xFF) } : Part).takeSlot := by
  simp only [Part.lowByteOf, if_true, lowByte_setWidth]
  rfl

theorem regOfByte_eq_take {r : ByteReg} : regOfByte r = .take ↔ r = .take := by cases r <;> simp [regOfByte]

/-- A slot number fits the low half: the high half is 0. -/
theorem slotWord_halves (n : SlotNo) :
    (BitVec.ofNat 16 n.val) &&& 0xFF = BitVec.ofNat 16 n.val ∧ highByte (BitVec.ofNat 16 n.val) = 0 := by
  revert n
  decide

/-- Settles O12: the low-byte write, then the low-byte read by whether it is TAKE and whether a slot is done. -/
theorem lowByteAccesses : Obligations.LowByteAccesses := by
  refine ⟨fun s r b hs hm => ?_, fun s r hs hm => ⟨fun hr => ?_, ?_, ?_⟩⟩
  · show execLowByteWrite r b s = _
    simp [execLowByteWrite, run_next, hs, hm]
  · rw [exec_lowByteRead_served r hs hm, Part.lowByteOf_plain _ (mt regOfByte_eq_take.1 hr)]
    rfl
  · rintro rfl n rest hdone
    obtain ⟨hlow, hhigh⟩ := slotWord_halves n
    rw [exec_lowByteRead_served .take hs hm, regOfByte, Part.lowByteOf_take, Part.takeValue_cons hdone,
      Part.takeSlot_cons (by exact hdone),
      hlow, hhigh]
    exact ⟨_, rfl, rfl, rfl, Part.slot_setSlot_same _ n _, rfl, fun m hm => Part.slot_setSlot_other _ _ hm, rfl, rfl⟩
  · rintro rfl hdone
    rw [exec_lowByteRead_served .take hs hm, regOfByte, Part.lowByteOf_take, Part.takeValue_nil hdone,
      Part.takeSlot_nil (by exact hdone)]
    rfl

/-! ## Reads of DATA (R81, R82) -/

/-- A served read of DATA: the latch placed as its mode gives. -/
theorem exec_dataRead_word {s : State} (hs : s.part.served = true)
    (hm : s.part.busMode = .word16 ∨ (s.part.busMode = .serial ∧ s.part.bus.serial = .framed .data true)) :
    exec .dataRead s = .next { s with
      part := s.part.readData (if s.part.busMode = .word16 then s.part.placed else id) } := by
  show run (Part.readAccess .data Part.readData) s = _
  rcases hm with hm | ⟨hm, hframed⟩
  · simp [run_next, Part.readAccess, hs, hm]
  · simp [run_next, Part.readAccess, hs, hm, Part.frames, hframed]

theorem exec_dataRead_byte {s : State} (hs : s.part.served = true) (hm : s.part.busMode = .byte8) :
    exec .dataRead s = .next { s with part := s.part.readData id } := by
  show run (Part.readAccess .data Part.readData) s = _
  simp [run_next, Part.readAccess, hs, hm]

theorem Part.readData_eq (p : Part) (place : Word → Word) :
    p.readData place = { p with
      bus.dataOut := some (place p.bus.readLatch),
      bus.readLatch := BitVec.ofNat 16 (leNat (Mem.readBytes p.mem p.dataAddr (if p.wordMode then 2 else 1))),
      bus.pointer := p.nextPointer } := rfl

/-- Two bytes read, the lower-addressed one the low byte. -/
theorem ofNat_leNat_two (low high : Byte) : BitVec.ofNat 16 (leNat [low, high]) = high ++ low := by
  have hl := low.isLt
  have hh := high.isLt
  refine BitVec.eq_of_toNat_eq ?_
  rw [BitVec.toNat_append, ← Nat.shiftLeft_add_eq_or_of_lt hl, BitVec.toNat_ofNat]
  simp only [leNat, Nat.shiftLeft_eq]
  omega

theorem ofNat_leNat_one (low : Byte) : BitVec.ofNat 16 (leNat [low]) = low.setWidth 16 := by
  refine BitVec.eq_of_toNat_eq ?_
  simp [leNat]

/-- Settles O13: the read of DATA with the latch's reload from one or two bytes and the advance as R81 gives it. -/
theorem dataReads : Obligations.DataReads := by
  refine ⟨fun s hs hm => ?_, fun s hs hm => ?_⟩
  · have hword : s.part.busMode ≠ .byte8 := by
      rcases hm with hm | ⟨hm, -⟩ <;> simp [hm]
    have heven : s.part.bus.pointer.toNat / 2 * 2 + 1 < memSize := by
      have := s.part.bus.pointer.isLt
      simp only [memSize]
      omega
    have hbytes : Mem.readBytes s.part.mem s.part.dataAddr 2
        = [s.byte (s.part.bus.pointer.toNat / 2 * 2), s.byte (s.part.bus.pointer.toNat / 2 * 2 + 1)] := by
      rw [Part.dataAddr_word hword]
      simp only [Mem.readBytes, memAddr_of_lt heven, memAddr_of_lt (Nat.lt_of_succ_lt heven)]
      rfl
    rw [exec_dataRead_word hs hm, Part.readData_eq, s.part.wordMode_iff.2 hword, if_pos rfl, hbytes, ofNat_leNat_two,
      Part.nextPointer_word hword, ite_apply]
    split <;> rfl
  · have hbytes : Mem.readBytes s.part.mem s.part.dataAddr 1 = [s.byte s.part.bus.pointer.toNat] := by
      rw [Part.dataAddr_byte hm]
      simp only [Mem.readBytes, memAddr_of_lt (show s.part.bus.pointer.toNat < memSize from s.part.bus.pointer.isLt)]
      rfl
    have hwm : s.part.wordMode = false := by simp [Part.wordMode, hm]
    rw [exec_dataRead_byte hs hm, Part.readData_eq, hwm, if_neg Bool.false_ne_true, hbytes, ofNat_leNat_one,
      Part.nextPointer_byte hm]
    rfl

/-! ## Accesses that are not served (R86, R92, R184, R186) -/

theorem exec_dataRead_unserved {s : State} (h : s.part.served = false) :
    exec .dataRead s = .next { s with part := s.part.unservedRead } := by
  show run (Part.readAccess .data Part.readData) s = _
  simp [run_next, Part.readAccess, h]

theorem exec_take_unserved {s : State} (h : s.part.served = false) :
    exec .take s = .next { s with part := s.part.unservedRead } := by
  show run (Part.readAccess .take Part.readTake) s = _
  simp [run_next, Part.readAccess, h]

/-- Where what the lines hold is stated, a read that is not served takes no free value. -/
theorem Part.unservedRead_stated {p : Part} (h : p.readsFree = false) :
    p.unservedRead = { p with bus.dataOut := p.unservedOut } := by
  rw [p.unservedRead_eq, h]
  rfl

/-- While RESET_N is low and before the zeroing has ended the lines hold 0. -/
theorem Part.unserved_zero {p : Part} (h : p.power.resetLow = true ∨ (p.power.state ≠ .stopped ∧ p.zeroing = true))
    (hm : p.busMode ≠ .serial) : p.readsFree = false ∧ p.unservedOut = some 0 := by
  have hvalue : p.unservedValue = 0 := by
    unfold Part.unservedValue
    rcases h with h | ⟨hstate, hzeroing⟩
    · simp [h]
    · simp [hstate, hzeroing]
  refine ⟨?_, ?_⟩
  · rcases h with h | ⟨-, h⟩ <;> simp [Part.readsFree, h]
  · cases hmode : p.busMode with
    | word16 => simp [Part.unservedOut, hmode, hvalue, BusMode.lines]
    | byte8 => simp [Part.unservedOut, hmode, hvalue, BusMode.lines]
    | serial => exact absurd hmode hm

/-- In STOPPED the lines hold all ones. -/
theorem Part.unserved_stopped {p : Part} (hlow : p.power.resetLow = false) (hstate : p.power.state = .stopped) :
    p.readsFree = false ∧ (p.busMode = .word16 → p.unservedOut = some 0xFFFF) ∧ (p.busMode = .byte8 → p.unservedOut = some 0xFF) := by
  refine ⟨by simp [Part.readsFree, hstate], fun hm => ?_, fun hm => ?_⟩ <;>
    simp [Part.unservedOut, Part.unservedValue, hm, hlow, hstate, BusMode.lines]

/-- In the serial mode SDO is released. -/
theorem Part.unserved_serial {p : Part} (hm : p.busMode = .serial) : p.readsFree = false ∧ p.unservedOut = none := by
  simp [Part.readsFree, Part.unservedOut, hm, BusMode.lines]

/-- A read of DATA or TAKE that is not served leaves the stated value on the lines and changes nothing else. -/
theorem exec_reads_unserved {s : State} {out : Option Word} (h : s.part.served = false) (hfree : s.part.readsFree = false)
    (hout : s.part.unservedOut = out) :
    exec .dataRead s = .next { s with part.bus.dataOut := out } ∧ exec .take s = .next { s with part.bus.dataOut := out } := by
  rw [exec_dataRead_unserved h, exec_take_unserved h, Part.unservedRead_stated hfree, hout]
  exact ⟨rfl, rfl⟩

/-- A write access that is not served has no effect. -/
theorem Part.writeAccess_unserved {p : Part} (r : Reg) (d : Word) (effect : Word → Part → Part) (h : p.served = false) :
    p.writeAccess r d effect = p := by
  rw [Part.writeAccess, Part.writeValue_unserved r d h]

/-- Settles O15: the writes are discarded; the reads by what the lines hold while the port does not serve. -/
theorem unservedAccesses : Obligations.UnservedAccesses := by
  intro s h
  have hwrite : ∀ (r : Reg) (d : Word) (effect : Word → Part → Part), run (Part.writeAccess r d effect) s = .next s := by
    intro r d effect
    rw [run_next, Part.writeAccess_unserved r d effect h]
  refine ⟨fun r d => hwrite _ d _, fun r b => ?_, fun d => ⟨?_, hwrite _ d _, hwrite _ d _⟩, fun d c hc => ?_, fun hzero hm => ?_,
    fun hlow hstate => ⟨fun hm => ?_, fun hm => ?_⟩, fun hm => ?_⟩
  · show execLowByteWrite r b s = _
    simp [execLowByteWrite, run_next, h]
  · show execDataWrite d s = _
    simp [execDataWrite, run_next, h, Part.writeAccess_unserved]
  · simp only [controlRows, List.mem_cons, List.not_mem_nil, or_false] at hc
    rcases hc with rfl | rfl | rfl | rfl
    · exact hwrite _ d _
    · exact hwrite _ d _
    · exact hwrite _ d _
    · exact hwrite _ d _
  · obtain ⟨hfree, hout⟩ := Part.unserved_zero hzero hm
    exact exec_reads_unserved h hfree hout
  · obtain ⟨hfree, hout, -⟩ := Part.unserved_stopped hlow hstate
    exact exec_reads_unserved h hfree (hout hm)
  · obtain ⟨hfree, -, hout⟩ := Part.unserved_stopped hlow hstate
    exact exec_reads_unserved h hfree (hout hm)
  · obtain ⟨hfree, hout⟩ := Part.unserved_serial hm
    exact exec_reads_unserved h hfree hout

/-! ## Serial framing (R80) -/

theorem exec_transactionStart (s : State) : exec .transactionStart s = .next { s with part := s.part.beginTransaction } := rfl

theorem exec_startByte (s : State) (b : Byte) : exec (.startByte b) s = .next { s with part := s.part.takeStart b } := rfl

theorem exec_transactionEnd (s : State) : exec .transactionEnd s = .next { s with part.bus.serial := .idle } := by
  show execTransactionEnd s = _
  rfl

/-- A transaction starts only outside a transaction (log 12). -/
theorem exec_transactionStart_busy {s : State} (h : s.part.bus.serial ≠ .idle) : exec .transactionStart s = .next s := by
  rw [exec_transactionStart, Part.beginTransaction, if_neg (fun hc => h hc.2)]

/-- A start byte is the first byte of a transaction only (log 1). -/
theorem exec_startByte_later {s : State} (b : Byte) (h : s.part.bus.serial ≠ .awaitStart) : exec (.startByte b) s = .next s := by
  rw [exec_startByte, Part.takeStart, if_neg (fun hc => h hc.2)]

/-- Settles O16, by the state of the serial link, with the port serving and not. -/
theorem serialFraming : Obligations.SerialFraming := by
  refine ⟨fun s hs hm => ⟨fun hidle => ?_, exec_transactionStart_busy, exec_startByte_later, fun b hawait hmark hsid => ?_,
    fun b hawait hother => ?_, exec_transactionEnd s⟩, fun s hs hm => ⟨fun hidle => ?_, exec_transactionStart_busy,
    fun b hawait => ?_, exec_startByte_later, exec_transactionEnd s⟩⟩
  · rw [exec_transactionStart, Part.beginTransaction, if_pos ⟨hm, hidle⟩, hs]
    rfl
  · rw [exec_startByte, Part.takeStart, if_pos ⟨hm, hawait⟩, hs, if_pos rfl, startOf, if_pos ⟨hmark, hsid⟩]
  · have hno : ¬(b.extractLsb' 5 3 = 6 ∧ b.getLsbD 4 = s.part.bus.sid) := by
      rintro ⟨hmark, hsid⟩
      exact hother.elim (· hmark) (· hsid)
    rw [exec_startByte, Part.takeStart, if_pos ⟨hm, hawait⟩, hs, if_pos rfl, startOf, if_neg hno]
  · rw [exec_transactionStart, Part.beginTransaction, if_pos ⟨hm, hidle⟩, hs]
    rfl
  · rw [exec_startByte, Part.takeStart, if_pos ⟨hm, hawait⟩, hs, if_neg Bool.false_ne_true]

/-! ## What a host read shows (R77 to R80, R87, R88, R90, R100, R109) -/

/-- The fields of STATE, each in its place (section 5.7). -/
theorem stateFields {power mount wait high done record scan reclaim v : Nat} (hp : power < 4) (hm : mount < 8) (hw : wait < 2)
    (hh : high < 2) (hd : done < 32) (hr : record < 2) (hs : scan < 2) (hc : reclaim < 4)
    (hv : v = power + 4 * mount + 2 ^ 5 * wait + 2 ^ 6 * high + 128 * done + 2 ^ 12 * record + 2 ^ 13 * scan
      + 2 ^ 14 * reclaim) :
    v < 65536 ∧ v % 4 = power ∧ v / 4 % 8 = mount ∧ v / 32 % 2 = wait ∧ v / 64 % 2 = high ∧ v / 128 % 32 = done
      ∧ v / 4096 % 2 = record ∧ v / 8192 % 2 = scan ∧ v / 16384 % 4 = reclaim := by
  subst hv
  omega

theorem bitAt_eq (b : Bool) (place : Nat) : bitAt b place = 2 ^ place * b.toNat := by cases b <;> simp [bitAt]

theorem ofNat_extractLsb'_toNat {v : Nat} (h : v < 65536) (start len : Nat) :
    ((BitVec.ofNat 16 v).extractLsb' start len).toNat = v / 2 ^ start % 2 ^ len := by
  rw [BitVec.extractLsb'_toNat, BitVec.toNat_ofNat, Nat.mod_eq_of_lt h, Nat.shiftRight_eq_div_pow]

theorem ofNat_getLsbD {v : Nat} (h : v < 65536) (i : Nat) (b : Bool) (hb : v / 2 ^ i % 2 = b.toNat) :
    (BitVec.ofNat 16 v).getLsbD i = b := by
  rw [← BitVec.testBit_toNat, BitVec.toNat_ofNat, Nat.mod_eq_of_lt h, Nat.testBit_eq_decide_div_mod_eq, hb]
  cases b <;> rfl

theorem PowerState.code_lt (st : PowerState) : st.code < 4 := by cases st <;> decide

theorem MountState.code_lt (st : MountState) : st.code < 8 := by cases st <;> decide

theorem ReclaimState.code_lt (st : ReclaimState) : st.code < 4 := by cases st <;> decide

theorem PostOutcome.code_lt (o : PostOutcome) : o.code < 8 := by cases o <;> decide

theorem Part.stateValue_fields (p : Part) :
    (p.stateValue.extractLsb' 0 2).toNat = p.power.state.code ∧ (p.stateValue.extractLsb' 2 3).toNat = p.mount.state.code
      ∧ p.stateValue.getLsbD 5 = (p.orders.intake != .ended) ∧ p.stateValue.getLsbD 6 = p.queueHigh
      ∧ (p.stateValue.extractLsb' 7 5).toNat = min 31 p.orders.doneList.length
      ∧ p.stateValue.getLsbD 12 = p.record.isSome ∧ p.stateValue.getLsbD 13 = p.scan.isSome
      ∧ (p.stateValue.extractLsb' 14 2).toNat = p.reclaim.state.code := by
  obtain ⟨hv, h0, h2, h5, h6, h7, h12, h13, h14⟩ := stateFields p.power.state.code_lt p.mount.state.code_lt
    (p.orders.intake != .ended).toNat_lt p.queueHigh.toNat_lt (show min 31 p.orders.doneList.length < 32 by omega)
    p.record.isSome.toNat_lt p.scan.isSome.toNat_lt p.reclaim.state.code_lt rfl
  simp only [Part.stateValue, bitAt_eq]
  refine ⟨?_, ?_, ?_, ?_, ?_, ?_, ?_, ?_⟩
  · rw [ofNat_extractLsb'_toNat hv, Nat.pow_zero, Nat.div_one]; exact h0
  · rw [ofNat_extractLsb'_toNat hv]; exact h2
  · exact ofNat_getLsbD hv 5 _ h5
  · exact ofNat_getLsbD hv 6 _ h6
  · rw [ofNat_extractLsb'_toNat hv]; exact h7
  · exact ofNat_getLsbD hv 12 _ h12
  · exact ofNat_getLsbD hv 13 _ h13
  · rw [ofNat_extractLsb'_toNat hv]; exact h14

theorem Part.postValue_fields {p : Part} (h : p.orders.postQueue.length ≤ 16) :
    (p.postValue.extractLsb' 0 5).toNat = p.orders.postQueue.length ∧ (p.postValue.extractLsb' 5 3).toNat = p.orders.lastPost.code
      ∧ p.postValue.extractLsb' 8 8 = 0 := by
  have hcode := p.orders.lastPost.code_lt
  have hv : p.orders.postQueue.length + 32 * p.orders.lastPost.code < 65536 := by omega
  refine ⟨?_, ?_, BitVec.eq_of_toNat_eq ?_⟩ <;> rw [Part.postValue, ofNat_extractLsb'_toNat hv]
  · omega
  · omega
  · show _ = 0
    omega

theorem Part.queueHigh_iff (p : Part) :
    p.queueHigh = true ↔ p.orders.intake = .ended ∧ p.orders.postMark ≤ p.orders.postQueue.length := by
  simp [Part.queueHigh]

theorem Part.readRegister_take_cons {p : Part} {n : SlotNo} {rest : List SlotNo} (h : p.orders.doneList = n :: rest) :
    (p.readRegister .take).toNat = n.val := by
  have := n.isLt
  rw [Part.readRegister, Part.takeValue_cons h, BitVec.toNat_ofNat]
  omega

/-- A read of DATA leaves on the pins what a host sees there. -/
theorem dataRead_shows (s : State) : ∃ t, exec .dataRead s = .next t ∧ t.part.bus.dataOut = s.part.pinRead .data false := by
  refine ⟨_, (rfl : exec .dataRead s = run (Part.readAccess .data Part.readData) s), ?_⟩
  show (s.part.readAccess .data Part.readData).bus.dataOut = _
  cases hs : s.part.served with
  | false => simp [Part.readAccess, Part.pinRead, hs, Part.unservedRead_eq]
  | true =>
    cases hm : s.part.busMode with
    | word16 => simp [Part.readAccess, Part.pinRead, hs, hm, Part.readData_eq, Part.readRegister]
    | byte8 => simp [Part.readAccess, Part.pinRead, hs, hm, Part.readData_eq, Part.readRegister]
    | serial =>
      cases hf : s.part.frames .data true <;>
        simp [Part.readAccess, Part.pinRead, hs, hm, hf, Part.readData_eq, Part.readRegister]

@[simp] theorem Part.takeSlot_bus (p : Part) : p.takeSlot.bus = p.bus := by
  unfold Part.takeSlot
  split <;> rfl

/-- A low-byte read leaves on the pins the register's low half. -/
theorem Part.lowByteOf_dataOut (p : Part) (r : Reg) :
    (p.lowByteOf r).bus.dataOut = some ((lowByte (p.readRegister r)).setWidth 16) := by
  simp only [Part.lowByteOf]
  split <;> simp

/-- A TAKE read leaves on the pins what a host sees there. -/
theorem take_shows (s : State) : ∃ t, exec .take s = .next t ∧ t.part.bus.dataOut = s.part.pinRead .take false := by
  refine ⟨_, (rfl : exec .take s = run (Part.readAccess .take Part.readTake) s), ?_⟩
  show (s.part.readAccess .take Part.readTake).bus.dataOut = _
  cases hs : s.part.served with
  | false => simp [Part.readAccess, Part.pinRead, hs, Part.unservedRead_eq]
  | true =>
    cases hm : s.part.busMode with
    | word16 => simp [Part.readAccess, Part.pinRead, hs, hm, Part.readTake, Part.wordMode, Part.readRegister]
    | byte8 => simp [Part.readAccess, Part.pinRead, hs, hm, Part.readTake, Part.wordMode, Part.lowByteOf_dataOut]
    | serial =>
      cases hf : s.part.frames .take true <;>
        simp [Part.readAccess, Part.pinRead, hs, hm, hf, Part.readTake, Part.wordMode, Part.readRegister]

/-- A low-byte read leaves on the pins what a host sees there. -/
theorem lowByteRead_shows {s : State} (r : ByteReg) (hm : s.part.busMode = .byte8) :
    ∃ t, exec (.lowByteRead r) s = .next t ∧ t.part.bus.dataOut = s.part.pinRead (regOfByte r) false := by
  have hdata : regOfByte r ≠ .data := by cases r <;> simp [regOfByte]
  cases hs : s.part.served with
  | true =>
    refine ⟨_, exec_lowByteRead_served r hs hm, ?_⟩
    simp [Part.pinRead, hs, hm, hdata, Part.lowByteOf_dataOut]
  | false =>
    have hexec : exec (.lowByteRead r) s = .next { s with part := s.part.unservedRead } := by
      show execLowByteRead r s = _
      simp [execLowByteRead, run_next, hs, hm]
    exact ⟨_, hexec, by simp [Part.pinRead_unserved, hs, Part.unservedRead_eq]⟩

/-- A low-byte read that is not served changes the pins alone where what they hold is stated. -/
theorem exec_lowByteRead_stated {s : State} (r : ByteReg) (hm : s.part.busMode = .byte8)
    (h : s.part.power.resetLow = true ∨ s.part.power.state = .stopped ∨ s.part.zeroing = true) :
    exec (.lowByteRead r) s = .next { s with part.bus.dataOut := s.part.pinRead (regOfByte r) false } := by
  have hs : s.part.served = false := by
    rcases h with h | h | h <;> simp [Part.served, Part.live, h]
  have hfree : s.part.readsFree = false := by
    rcases h with h | h | h <;> simp [Part.readsFree, h]
  show execLowByteRead r s = _
  simp [execLowByteRead, run_next, hs, hm, Part.pinRead_unserved, Part.unservedRead_stated hfree]

/-- What the pins show of a read that is served, mode by mode. -/
theorem Part.pinRead_served {p : Part} (r : Reg) (a0 : Bool) (hs : p.served = true) :
    (p.busMode = .word16 → p.pinRead r a0 = some (if p.bus.byteOrd then (p.readRegister r).rotateLeft 8 else p.readRegister r))
      ∧ (p.busMode = .byte8 → r = .data → p.pinRead r a0 = some (p.readRegister r))
      ∧ (p.busMode = .byte8 → r ≠ .data → p.pinRead r false = some (p.readRegister r &&& 0xFF)
          ∧ p.pinRead r true = some (p.bus.readCapture.setWidth 16))
      ∧ (p.busMode = .serial → p.bus.serial = .framed r true → p.pinRead r a0 = some (p.readRegister r))
      ∧ (p.busMode = .serial → p.bus.serial ≠ .framed r true → p.pinRead r a0 = none) := by
  refine ⟨fun hm => ?_, fun hm hr => ?_, fun hm hr => ?_, fun hm hf => ?_, fun hm hf => ?_⟩
  · simp [Part.pinRead, hs, hm, Part.placed_eq]
  · simp [Part.pinRead, hs, hm, hr]
  · simp [Part.pinRead, hs, hm, hr, lowByte_setWidth]
  · simp [Part.pinRead, hs, hm, Part.frames, hf]
  · simp [Part.pinRead, hs, hm, Part.frames, hf]

/-- Settles O9: the register values field by field, the pins by mode and service, and the reads that leave just that there. -/
theorem hostReadValues : Obligations.HostReadValues := by
  refine ⟨⟨rfl, rfl, rfl, rfl, rfl⟩, fun p => ⟨?_, ?_, ?_, rfl, Part.takeValue_nil, fun n rest h => Part.readRegister_take_cons h, rfl,
    Part.postValue_fields, ?_, p.queueHigh_iff⟩, fun p r a0 => ⟨Part.pinRead_served r a0, fun hs hm => ?_, fun hzero hm => ?_,
    fun hlow hstate => ⟨fun hm => ?_, fun hm => ?_⟩⟩, fun s r => ⟨dataRead_shows s, take_shows s, fun hm =>
    ⟨lowByteRead_shows r hm, exec_lowByteRead_stated r hm⟩⟩, fun v i hi => ?_⟩
  · exact BitVec.toNat_setWidth_of_le (by omega)
  · exact BitVec.toNat_setWidth_of_le (by omega)
  · exact BitVec.toNat_setWidth_of_le (by omega)
  · obtain ⟨h0, h2, h5, h6, h7, h12, h13, h14⟩ := p.stateValue_fields
    refine ⟨h0, h2, ?_, h6, h7, h12, h13, h14⟩
    show p.stateValue.getLsbD 5 = true ↔ _
    rw [h5]
    simp
  · rw [Part.pinRead_unserved r a0 hs]
    exact (Part.unserved_serial hm).2
  · have hs : p.served = false := by
      rcases hzero with h | ⟨-, h⟩ <;> simp [Part.served, Part.live, h]
    rw [Part.pinRead_unserved r a0 hs]
    exact (Part.unserved_zero hzero hm).2
  · have hs : p.served = false := by simp [Part.served, Part.live, hstate]
    rw [Part.pinRead_unserved r a0 hs]
    exact (Part.unserved_stopped hlow hstate).2.1 hm
  · have hs : p.served = false := by simp [Part.served, Part.live, hstate]
    rw [Part.pinRead_unserved r a0 hs]
    exact (Part.unserved_stopped hlow hstate).2.2 hm
  · simp [serialBits, hi]

end Sys2Proof.Machine
end

section
/-! SUPPORT. What the reclaim unit's acts leave as it was, and what every act of the units inside a lane loss leaves: the power
state, the bus port but for raised notices, and each lane's state, count and operation in flight (R57, R69, R149 to R157). -/

namespace Sys2Proof.Machine

/-! ## Lanes that the units' requests leave standing -/

/-- A lane that has been lost or found absent, with nothing in flight, held back or waiting. -/
def LaneRec.Dead (r : LaneRec) : Prop :=
  (r.state = .absent ∨ r.state = .offline) ∧ r.inFlight = none ∧ r.heldBack = none ∧ r.waiting = .empty

/-- Requests alone change: state, count, last granted and link stand, an operation in flight may come to be discarded, and a dead
lane stays as it is. -/
structure LaneRec.Kept (r x : LaneRec) : Prop where
  fields : x.state = r.state ∧ x.count = r.count ∧ x.lastGranted = r.lastGranted ∧ x.linkDriven = r.linkDriven
  flight : x.inFlight = r.inFlight
    ∨ ∃ f, r.inFlight = some f ∧ f.requester.mayDiscard = true ∧ x.inFlight = some { f with discard := true }
  dead : r.Dead → x = r

namespace LaneRec.Kept

theorem refl (r : LaneRec) : r.Kept r := ⟨⟨rfl, rfl, rfl, rfl⟩, .inl rfl, fun _ => rfl⟩

theorem trans {r x y : LaneRec} (h1 : r.Kept x) (h2 : x.Kept y) : r.Kept y := by
  obtain ⟨⟨s1, c1, g1, k1⟩, f1, d1⟩ := h1
  obtain ⟨⟨s2, c2, g2, k2⟩, f2, d2⟩ := h2
  refine ⟨⟨s2.trans s1, c2.trans c1, g2.trans g1, k2.trans k1⟩, ?_, fun h => ?_⟩
  · rcases f1 with f1 | ⟨f, hr, hm, f1⟩ <;> rcases f2 with f2 | ⟨f', hx, hm', f2⟩
    · exact .inl (f2.trans f1)
    · exact .inr ⟨f', f1.symm.trans hx, hm', f2⟩
    · exact .inr ⟨f, hr, hm, f2.trans f1⟩
    · obtain rfl : f' = { f with discard := true } := Option.some.inj (hx.symm.trans f1)
      exact .inr ⟨f, hr, hm, f2⟩
  · have hx := d1 h
    rw [d2 (hx ▸ h), hx]

/-- The operation in flight keeps its requester. -/
theorem flier_eq {r x : LaneRec} (h : r.Kept x) : x.flier = r.flier := by
  rcases h.flight with h | ⟨f, hr, _, hx⟩
  · rw [LaneRec.flier, LaneRec.flier, h]
  · rw [LaneRec.flier, LaneRec.flier, hr, hx]
    rfl

theorem idle_iff {r x : LaneRec} (h : r.Kept x) : x.inFlight.isNone = r.inFlight.isNone := by
  rcases h.flight with h | ⟨f, hr, _, hx⟩
  · rw [h]
  · rw [hr, hx]; rfl

end LaneRec.Kept

theorem LaneRec.kept_request {r : LaneRec} (rq : Requester) (q : Request) (h : r.state = .present ∨ r.state = .unknown) :
    r.Kept (r.request rq q) := by
  obtain ⟨hs, hc, hf, hg, hk⟩ := r.request_fields rq q
  refine ⟨⟨hs, hc, hg, hk⟩, .inl hf, fun ⟨hd, _⟩ => ?_⟩
  rcases h with h | h <;> rw [h] at hd <;> simp at hd

theorem LaneRec.kept_withdraw (r : LaneRec) (rq : Requester) : r.Kept { r with waiting := r.waiting.set rq none } := by
  refine ⟨⟨rfl, rfl, rfl, rfl⟩, .inl rfl, fun ⟨_, _, _, hw⟩ => ?_⟩
  have hset : r.waiting.set rq none = r.waiting := by rw [hw]; cases rq <;> rfl
  rw [hset]

theorem LaneRec.kept_dropWork (r : LaneRec) {rq : Requester} (h : rq.mayDiscard = true) : r.Kept (r.dropWork rq) := by
  refine ⟨⟨rfl, rfl, rfl, rfl⟩, ?_, fun ⟨_, hf, hb, hw⟩ => ?_⟩
  · show r.inFlight.map _ = _ ∨ _
    cases hf : r.inFlight with
    | none => exact .inl rfl
    | some f =>
      by_cases hq : f.requester = rq
      · refine .inr ⟨f, rfl, hq ▸ h, ?_⟩
        simp only [LaneRec.dropWork, hf, Option.map_some, if_pos hq]
      · refine .inl ?_
        simp only [Option.map_some, if_neg hq]
  · obtain ⟨state, count, inFlight, heldBack, waiting, lastGranted, linkDriven⟩ := r
    obtain rfl : inFlight = none := hf
    obtain rfl : heldBack = none := hb
    obtain rfl : waiting = .empty := hw
    cases rq <;> rfl

/-- Each lane's requests alone have changed. -/
def Part.LanesKept (p q : Part) : Prop := ∀ l, (p.lane l).Kept (q.lane l)

theorem Part.LanesKept.of_eq {p q : Part} (h : q.lanes = p.lanes) : p.LanesKept q := fun l => by
  rw [show q.lane l = p.lane l from congrArg (Quad.get · l) h]
  exact .refl _

theorem Part.lanesKept_setLane {p : Part} {l : Lane} {r : LaneRec} (h : (p.lane l).Kept r) : p.LanesKept (p.setLane l r) := fun k => by
  by_cases hk : k = l
  · subst hk
    rwa [Part.lane_setLane_same]
  · rw [Part.lane_setLane_other _ _ hk]
    exact .refl _

theorem Part.lanesKept_place {p : Part} {l : Lane} (rq : Requester) (r : Request)
    (h : (p.lane l).state = .present ∨ (p.lane l).state = .unknown) : p.LanesKept (p.place l rq r) :=
  Part.lanesKept_setLane (LaneRec.kept_request rq r h)

theorem Part.present_iff (p : Part) (l : Lane) : p.present l = true ↔ (p.lane l).state = .present := by
  simp [Part.present]

theorem Quad.get_map {α β : Type} (f : α → β) (q : Quad α) (l : Lane) : (q.map f).get l = f (q.get l) := by
  fin_cases l <;> rfl

theorem Part.lane_dropWork (p : Part) (rq : Requester) (l : Lane) : (p.dropWork rq).lane l = (p.lane l).dropWork rq :=
  Quad.get_map _ _ l

theorem Part.lanesKept_dropWork (p : Part) {rq : Requester} (h : rq.mayDiscard = true) : p.LanesKept (p.dropWork rq) := fun l => by
  rw [Part.lane_dropWork]
  exact LaneRec.kept_dropWork _ h

theorem Part.LanesKept.present_eq {p q : Part} (h : p.LanesKept q) (l : Lane) : q.present l = p.present l := by
  simp only [Part.present, (h l).fields.1]

/-! ## The reclaim unit's acts (R149 to R157) -/

/-- The part with all that the reclaim unit's acts may change set to one value. -/
def Part.besideReclaim (p : Part) : Part :=
  { p with
    bus.sticky := 0, mem := [], orders := Orders.reset 0, segs := Quad.all [], lanes := Quad.all LaneRec.reset,
    reclaim := Reclaim.reset, head.orderReq := none, head.copyReq := none }

/-- The part with the unit's own fields but the attached order, the segment table and the head writer's requests set to one value. -/
def Part.withoutOwn (p : Part) : Part :=
  { p with
    segs := Quad.all [], reclaim := { Reclaim.reset with attached := p.reclaim.attached }, head.orderReq := none,
    head.copyReq := none }

/-- From `p` to `q` the reclaim unit has acted: its own state, segment states, requests and notices may have changed, and, where
an order was attached, that order may have been completed. -/
structure Part.Reclaims (p q : Part) : Prop where
  beside : q.besideReclaim = p.besideReclaim
  raised : q.bus.sticky ||| p.bus.sticky = q.bus.sticky
  lanes : p.LanesKept q
  unattached : p.reclaim.attached = none → q.reclaim.attached = none ∧ q.mem = p.mem ∧ q.orders = p.orders

namespace Part.Reclaims

theorem refl (p : Part) : p.Reclaims p := ⟨rfl, BitVec.or_self, .of_eq rfl, fun h => ⟨h, rfl, rfl⟩⟩

theorem trans {p q r : Part} (h1 : p.Reclaims q) (h2 : q.Reclaims r) : p.Reclaims r where
  beside := h2.beside.trans h1.beside
  raised := by rw [← h2.raised, BitVec.or_assoc, h1.raised]
  lanes l := (h1.lanes l).trans (h2.lanes l)
  unattached h := by
    obtain ⟨ha, hm, ho⟩ := h1.unattached h
    obtain ⟨ha', hm', ho'⟩ := h2.unattached ha
    exact ⟨ha', hm'.trans hm, ho'.trans ho⟩

theorem power_eq {p q : Part} (h : p.Reclaims q) : q.power = p.power := (congrArg Part.power h.beside :)
theorem pins_eq {p q : Part} (h : p.Reclaims q) : q.pins = p.pins := (congrArg Part.pins h.beside :)
theorem seen_eq {p q : Part} (h : p.Reclaims q) : q.seen = p.seen := (congrArg Part.seen h.beside :)
theorem zeroing_eq {p q : Part} (h : p.Reclaims q) : q.zeroing = p.zeroing := (congrArg Part.zeroing h.beside :)
theorem format_eq {p q : Part} (h : p.Reclaims q) : q.format = p.format := (congrArg Part.format h.beside :)
theorem record_eq {p q : Part} (h : p.Reclaims q) : q.record = p.record := (congrArg Part.record h.beside :)
theorem scan_eq {p q : Part} (h : p.Reclaims q) : q.scan = p.scan := (congrArg Part.scan h.beside :)
theorem dir_eq {p q : Part} (h : p.Reclaims q) : q.dir = p.dir := (congrArg Part.dir h.beside :)
theorem lastHeadLane_eq {p q : Part} (h : p.Reclaims q) : q.lastHeadLane = p.lastHeadLane :=
  (congrArg Part.lastHeadLane h.beside :)
theorem mount_eq {p q : Part} (h : p.Reclaims q) : q.mount = p.mount := (congrArg Part.mount h.beside :)
theorem freeIndex_eq {p q : Part} (h : p.Reclaims q) : q.freeIndex = p.freeIndex := (congrArg Part.freeIndex h.beside :)
theorem bus_eq {p q : Part} (h : p.Reclaims q) : q.bus.withoutSticky = p.bus.withoutSticky :=
  (congrArg Part.bus h.beside :)
theorem head_eq {p q : Part} (h : p.Reclaims q) :
    { q.head with orderReq := none, copyReq := none } = ({ p.head with orderReq := none, copyReq := none } : Head) :=
  (congrArg Part.head h.beside :)
theorem append_eq {p q : Part} (h : p.Reclaims q) : q.head.append = p.head.append := (congrArg Head.append h.head_eq :)

/-- A change of the unit's own fields, the segment table and the head writer's requests. -/
theorem of_own {p q : Part} (h : q.withoutOwn = p.withoutOwn) : p.Reclaims q where
  beside := (congrArg Part.besideReclaim h :)
  raised := by rw [show q.bus = p.bus from (congrArg Part.bus h :), BitVec.or_self]
  lanes := .of_eq (congrArg Part.lanes h :)
  unattached ha := by
    have hattached : q.reclaim.attached = p.reclaim.attached := (congrArg (fun r : Part => r.reclaim.attached) h :)
    exact ⟨hattached.trans ha, (congrArg Part.mem h :), (congrArg Part.orders h :)⟩

theorem after {p q r : Part} (h : q.Reclaims r) (hq : q.withoutOwn = p.withoutOwn) : p.Reclaims r := (of_own hq).trans h

end Part.Reclaims

theorem Part.reclaims_toReclaim (p : Part) (st : ReclaimState) : p.Reclaims (p.toReclaim st) := by
  unfold Part.toReclaim
  split <;> exact .of_own rfl

theorem Part.reclaims_modSeg (p : Part) (a : SegAddr) (f : SegEntry → SegEntry) : p.Reclaims (p.modSeg a f) :=
  .of_own rfl

theorem Part.reclaims_raise (p : Part) (n : Sticky) : p.Reclaims (p.raise n) where
  beside := rfl
  raised := by rw [Part.raise_sticky, BitVec.or_assoc, BitVec.or_comm n.bit, ← BitVec.or_assoc, BitVec.or_self]
  lanes := .of_eq rfl
  unattached h := ⟨h, rfl, rfl⟩

theorem Part.reclaims_dropWork (p : Part) : p.Reclaims (p.dropWork .reclaim) where
  beside := rfl
  raised := BitVec.or_self
  lanes := p.lanesKept_dropWork rfl
  unattached h := ⟨h, rfl, rfl⟩

theorem Part.reclaims_dropWalk (p : Part) : p.Reclaims p.dropWalk := by
  simp only [Part.dropWalk]
  split
  · exact (p.reclaims_dropWork.trans (Part.reclaims_modSeg _ _ _)).trans (.of_own rfl)
  · exact p.reclaims_dropWork.trans (.of_own rfl)

theorem Part.complete_besideReclaim (p : Part) (n : SlotNo) (r : Result) : (p.complete n r).besideReclaim = p.besideReclaim := by
  simp [Part.besideReclaim]

theorem Part.reclaims_endHaltedOrder (p : Part) (tail : Option SegAddr) : p.Reclaims (p.endHaltedOrder tail) := by
  unfold Part.endHaltedOrder
  split
  · exact .refl p
  · next a ha =>
    split
    · refine ⟨?_, ?_, .of_eq (by simp), fun h => absurd (h.symm.trans ha) (by simp)⟩
      · rw [Part.complete_besideReclaim]
        rfl
      · rw [(Part.complete_frame _ _ _).2.2.1, BitVec.or_self]
    · exact .refl p

theorem Part.reclaims_haltReclaim (p : Part) : p.Reclaims p.haltReclaim :=
  ((p.reclaims_dropWalk.trans (Part.reclaims_toReclaim _ _)).trans (Part.reclaims_raise _ _)).trans
    (Part.reclaims_endHaltedOrder _ _)

theorem Part.reclaims_settleDecision (p : Part) (d : ChainDecision) : p.Reclaims (p.settleDecision d).1 := by
  cases d with
  | idle => exact p.reclaims_toReclaim _
  | stalled => exact (p.reclaims_toReclaim _).trans (Part.reclaims_raise _ _)
  | halt => exact p.reclaims_haltReclaim
  | take _ => exact .refl p

theorem Part.reclaims_takeTail (p : Part) (a : SegAddr) (origin : Origin) : p.Reclaims (p.takeTail a origin) :=
  .of_own rfl

theorem Part.reclaims_endWalk (p : Part) (t : SegAddr) : p.Reclaims (p.endWalk t) :=
  ⟨rfl, BitVec.or_self, .of_eq rfl, fun h => ⟨by simp [Part.endWalk, h], rfl, rfl⟩⟩

theorem Part.reclaims_afterWalk (p : Part) : p.Reclaims p.afterWalk.1 := by
  have hidle := p.reclaims_toReclaim .idle
  unfold Part.afterWalk
  split
  · split
    · exact p.reclaims_settleDecision _
    · exact hidle
  · simp only
    split
    · split
      · exact hidle.trans (Part.reclaims_settleDecision _ _)
      · exact hidle.trans (.of_own rfl)
    · exact hidle

/-- A segment is taken on a PRESENT lane alone (R150). -/
theorem Part.decideChain_take_present {p : Part} {a : SegAddr} (h : p.decideChain = .take a) : p.present a.lane = true := by
  unfold Part.decideChain at h
  split_ifs at h
  split at h
  · exact absurd h (by simp)
  · split_ifs at h with hpresent hclosed
    · simp only [ChainDecision.take.injEq] at h
      subst h
      simpa using hpresent

theorem Part.afterWalk_some_present {p q : Part} {a : SegAddr} (h : p.afterWalk = (q, some a)) : q.present a.lane = true := by
  have hdecided : ∀ r : Part, r.settleDecision r.decideChain = (q, some a) → q.present a.lane = true := fun r hr => by
    obtain ⟨rfl, hd⟩ := Part.settleDecision_some hr
    exact Part.decideChain_take_present hd
  unfold Part.afterWalk at h
  split at h
  · split at h
    · exact hdecided _ h
    · simp at h
  · simp only at h
    split at h
    · split at h
      · exact hdecided _ h
      · simp at h
    · simp at h

theorem Part.reclaims_readTail {p : Part} {t : SegAddr} (line : Nat) (h : p.present t.lane = true) :
    p.Reclaims (p.readTail t line) where
  beside := rfl
  raised := BitVec.or_self
  lanes := Part.lanesKept_place _ _ (.inl ((p.present_iff _).1 h))
  unattached h := ⟨h, rfl, rfl⟩

/-- The tail, if there is one, lies on a PRESENT lane. -/
def Part.TailPresent (p : Part) : Prop := ∀ t, p.reclaim.tail = some t → p.present t.lane = true

theorem Part.tailPresent_takeTail {p : Part} {a : SegAddr} (origin : Origin) (h : p.present a.lane = true) :
    (p.takeTail a origin).TailPresent := by
  intro t ht
  obtain rfl : a = t := Option.some.inj ht
  exact h

theorem Part.reclaims_walkFrom (n : Nat) (p : Part) (h : p.TailPresent) : p.Reclaims (p.walkFrom n) := by
  induction n generalizing p with
  | zero => exact .refl p
  | succ n ih =>
    unfold Part.walkFrom
    split
    · exact .refl p
    · next t ht =>
      split
      · exact Part.reclaims_readTail _ (h t ht)
      · have hend := (p.reclaims_endWalk t).trans (Part.reclaims_afterWalk _)
        split
        · next q hq => rwa [hq] at hend
        · next q a hq =>
          rw [hq] at hend
          exact (hend.trans (q.reclaims_takeTail a .trigger)).trans
            (ih _ (Part.tailPresent_takeTail _ (Part.afterWalk_some_present hq)))

theorem Part.reclaims_walk (p : Part) (h : p.TailPresent) : p.Reclaims p.walk := p.reclaims_walkFrom _ h

theorem Part.reclaims_evaluate (p : Part) (origin : Origin) : p.Reclaims (p.evaluate origin) := by
  have hsettled := p.reclaims_settleDecision p.decideChain
  unfold Part.evaluate
  split
  · next q hq => rwa [hq] at hsettled
  · next q a hq =>
    obtain ⟨rfl, hd⟩ := Part.settleDecision_some hq
    exact (q.reclaims_takeTail a origin).trans
      (Part.reclaims_walk _ (Part.tailPresent_takeTail _ (Part.decideChain_take_present hd)))

theorem Part.reclaims_trigger (p : Part) : p.Reclaims p.trigger := by
  unfold Part.trigger
  split
  · split
    · exact p.reclaims_evaluate _
    · exact p.reclaims_evaluate _
    · exact .refl p
    · exact .refl p
  · exact .of_own rfl

theorem Part.reclaims_compareLow (p : Part) : p.Reclaims p.compareLow := by
  unfold Part.compareLow
  split
  · exact p.reclaims_trigger
  · exact .refl p

theorem Part.reclaims_actRelease (p : Part) : p.Reclaims p.actRelease := by
  unfold Part.actRelease
  split
  · exact p.reclaims_evaluate _
  · exact p.reclaims_toReclaim _

theorem Part.reclaims_release (p : Part) : p.Reclaims p.release := by
  unfold Part.release
  split
  · split
    · exact p.reclaims_actRelease
    · exact .of_own rfl
  · exact .refl p
  · exact .refl p
  · exact .refl p

theorem Part.reclaims_releaseIfFell (p : Part) (a : SegAddr) (before : SegEntry) : p.Reclaims (p.releaseIfFell a before) := by
  unfold Part.releaseIfFell
  split
  · exact p.reclaims_release
  · exact .refl p

theorem Part.reclaims_releaseIfClosed (p : Part) (a : SegAddr) : p.Reclaims (p.releaseIfClosed a) := by
  unfold Part.releaseIfClosed
  split
  · exact p.reclaims_release
  · exact .refl p

theorem Part.reclaims_reclaimReturns (p : Part) : p.Reclaims p.reclaimReturns := by
  unfold Part.reclaimReturns
  cases p.reclaim.state with
  | idle =>
    simp only
    split
    · exact (Part.reclaims_evaluate _ _).after rfl
    · exact .refl p
  | stalled =>
    simp only
    split
    · exact (Part.reclaims_actRelease _).after rfl
    · split
      · exact (Part.reclaims_evaluate _ _).after rfl
      · exact .refl p
  | copying => exact .of_own rfl
  | halted => exact .of_own rfl

/-! ## The units' acts at a lane loss (R69, R70) -/

/-- From `p` to `q` units have acted as they do when lanes are lost: power control and the inputs seen stand, notices are raised
at most, of the lanes requests alone have changed, and no lane's IDENTIFY is asked for again. -/
structure Part.Inside (p q : Part) : Prop where
  power : q.power = p.power
  seen : q.seen = p.seen
  bus : q.bus.withoutSticky = p.bus.withoutSticky
  raised : q.bus.sticky ||| p.bus.sticky = q.bus.sticky
  lanes : p.LanesKept q
  identified : ∀ l, (p.mount.lanes.get l).identEnded = true → (q.mount.lanes.get l).identEnded = true

/-- What an act of the units that places no request leaves as it was. -/
def Part.outside (p : Part) : Power × Inputs × Bus × Quad LaneRec × Quad LaneMount :=
  (p.power, p.seen, p.bus, p.lanes, p.mount.lanes)

namespace Part.Inside

theorem refl (p : Part) : p.Inside p := ⟨rfl, rfl, rfl, BitVec.or_self, .of_eq rfl, fun _ h => h⟩

theorem trans {p q r : Part} (h1 : p.Inside q) (h2 : q.Inside r) : p.Inside r where
  power := h2.power.trans h1.power
  seen := h2.seen.trans h1.seen
  bus := h2.bus.trans h1.bus
  raised := by rw [← h2.raised, BitVec.or_assoc, h1.raised]
  lanes l := (h1.lanes l).trans (h2.lanes l)
  identified l h := h2.identified l (h1.identified l h)

theorem of_reclaims {p q : Part} (h : p.Reclaims q) : p.Inside q where
  power := h.power_eq
  seen := h.seen_eq
  bus := h.bus_eq
  raised := h.raised
  lanes := h.lanes
  identified l hl := by rwa [h.mount_eq]

/-- A change that leaves power control, the inputs, the bus port, the lanes and the mount engine's progress on them. -/
theorem of_outside {p q : Part} (h : q.outside = p.outside) : p.Inside q := by
  simp only [Part.outside, Prod.mk.injEq] at h
  obtain ⟨hp, hs, hb, hl, hm⟩ := h
  exact ⟨hp, hs, by rw [hb], by rw [hb, BitVec.or_self], .of_eq hl, fun l h => by rwa [hm]⟩

theorem after {p q r : Part} (h : q.Inside r) (hq : q.outside = p.outside) : p.Inside r := (of_outside hq).trans h

theorem present_eq {p q : Part} (h : p.Inside q) (l : Lane) : q.present l = p.present l := h.lanes.present_eq l

end Part.Inside

theorem Part.inside_modSeg (p : Part) (a : SegAddr) (f : SegEntry → SegEntry) : p.Inside (p.modSeg a f) :=
  .of_outside rfl

theorem Part.inside_complete (p : Part) (n : SlotNo) (r : Result) : p.Inside (p.complete n r) :=
  .of_outside (by simp [Part.outside])

theorem Part.inside_finishRecord (p : Part) (r : Result) : p.Inside (p.finishRecord r) := by
  unfold Part.finishRecord
  split
  · exact .refl p
  · exact (Part.inside_complete _ _ _).after rfl

theorem Part.inside_place {p : Part} {l : Lane} (rq : Requester) (r : Request)
    (h : (p.lane l).state = .present ∨ (p.lane l).state = .unknown) : p.Inside (p.place l rq r) where
  power := rfl
  seen := rfl
  bus := rfl
  raised := BitVec.or_self
  lanes := Part.lanesKept_place rq r h
  identified _ h := h

theorem Part.inside_withdraw (p : Part) (l : Lane) (rq : Requester) : p.Inside (p.withdraw l rq) where
  power := rfl
  seen := rfl
  bus := rfl
  raised := BitVec.or_self
  lanes := Part.lanesKept_setLane (LaneRec.kept_withdraw _ _)
  identified _ h := h

/-! ### The scan unit -/

theorem Part.inside_endScan (p : Part) (o : ScanOrder) (r : Result) (k : Long) : p.Inside (p.endScan o r k) :=
  (Part.inside_complete _ _ _).after rfl

theorem Part.inside_scanHit (p : Part) (o : ScanOrder) (key sequence : Long) : p.Inside (p.scanHit o key sequence) := by
  unfold Part.scanHit
  split
  · exact .of_outside rfl
  · exact p.inside_endScan _ _ _

theorem Part.inside_readScan (p : Part) (o : ScanOrder) (h : ScanHand) : p.Inside (p.readScan o h) := by
  simp only [Part.readScan]
  split
  · next hpresent =>
    exact (Part.inside_place (p := p.setScan { o with inHand := some h }) (l := h.entry.loc.addr.lane) _ _
      (.inl ((p.present_iff _).1 hpresent))).after rfl
  · exact .of_outside rfl

theorem Part.inside_scanSelect (p : Part) (o : ScanOrder) (e : DirEntry) : p.Inside (p.scanSelect o e) := by
  simp only [Part.scanSelect]
  split
  · exact p.inside_scanHit _ _ _
  · exact (p.inside_modSeg _ _).trans (Part.inside_readScan _ _ _)

theorem Part.inside_scanBoundary (p : Part) : p.Inside p.scanBoundary := by
  unfold Part.scanBoundary
  split
  · exact .refl p
  · split
    · exact .refl p
    · split
      · exact p.inside_endScan _ _ _
      · split
        · exact .refl p
        · split
          · exact p.inside_endScan _ _ _
          · split
            · exact .of_outside rfl
            · split
              · exact p.inside_scanSelect _ _
              · exact .of_outside rfl

theorem Part.inside_scanDamaged (p : Part) (o : ScanOrder) (h : ScanHand) : p.Inside (p.scanDamaged o h) :=
  (Part.inside_scanBoundary _).after rfl

theorem Part.inside_scanLost (p : Part) : p.Inside p.scanLost := by
  unfold Part.scanLost
  split
  · exact .refl p
  · split
    · exact .refl p
    · exact p.inside_scanDamaged _ _

/-! ### The record unit -/

theorem Part.inside_endGet (p : Part) (g : GetRead) (r : Result) : p.Inside (p.endGet g r) :=
  (p.inside_modSeg _ _).trans (Part.inside_finishRecord _ _)

theorem Part.inside_getLost (p : Part) (why : Reason) : p.Inside (p.getLost why) := by
  unfold Part.getLost
  split
  · exact .refl p
  · split
    · exact .refl p
    · exact p.inside_endGet _ _

/-! ### The head writer -/

theorem Part.inside_submitCopy (p : Part) : p.Inside p.submitCopy := by
  unfold Part.submitCopy
  split <;> exact .of_outside rfl

/-- A copy that is answered but for its completion or a discard is submitted again, waits, or halts the unit. -/
theorem Part.inside_copyAnswer (p : Part) {ans : CopyAnswer} (hc : ans ≠ .completed) (hd : ans ≠ .discarded) :
    p.Inside (p.copyAnswer ans) := by
  have hhalt : p.Inside p.haltReclaim := .of_reclaims p.reclaims_haltReclaim
  unfold Part.copyAnswer
  split
  · cases ans with
    | completed => exact absurd rfl hc
    | discarded => exact absurd rfl hd
    | journalFull =>
      simp only
      split
      · exact .of_outside rfl
      · exact hhalt
    | laneLost =>
      simp only
      split
      · exact p.inside_submitCopy
      · exact hhalt
    | programFault => exact hhalt
    | sequenceSpent => exact hhalt
  · exact .refl p

/-- The ends of an append that an act at a lane loss gives: a copy never ends WRITE_INHIBITED (R126). -/
theorem Part.inside_endAppend (p : Part) {why : AppendEnd} (a : Append) (h : why ≠ .writeInhibited ∨ ∃ r, a.work = .order r) :
    p.Inside (p.endAppend why a) := by
  have hcleared : p.Inside { p with head.append := none } := .of_outside rfl
  simp only [Part.endAppend]
  split
  · exact hcleared.trans (Part.inside_finishRecord _ _)
  · next c hw =>
    have hwhy : why ≠ .writeInhibited := by
      rcases h with h | ⟨r, hr⟩
      · exact h
      · rw [hw] at hr; simp at hr
    refine hcleared.trans (Part.inside_copyAnswer _ ?_ ?_) <;> cases why <;> simp_all [AppendEnd.answer]

theorem Part.inside_setBackNow (p : Part) (cause : SetBack) (a : Append) : p.Inside (p.setBackNow cause a) := by
  unfold Part.setBackNow
  split
  · next r hr =>
    cases cause with
    | winh => exact p.inside_endAppend a (.inr ⟨r, hr⟩)
    | power => exact .of_outside rfl
  · split <;> exact .of_outside rfl

theorem Part.inside_reserveUnmet (p : Part) (a : Append) : p.Inside (p.reserveUnmet a) := by
  unfold Part.reserveUnmet
  split
  · split
    · exact .of_outside rfl
    · exact p.inside_endAppend a (.inl (by simp))
  · exact p.inside_endAppend a (.inl (by simp))

/-- The rotation chooses on a PRESENT lane alone (R49). -/
theorem Part.rotation_present {p : Part} {s : SegAddr} (h : p.rotation = some s) : p.present s.lane = true := by
  obtain ⟨l, _, hl⟩ := List.exists_of_findSome?_eq_some h
  unfold Part.freeOn at hl
  split at hl
  · next hpresent =>
    obtain ⟨i, _, rfl⟩ := Option.map_eq_some_iff.1 hl
    exact hpresent
  · simp at hl

theorem Part.inside_openSegment (p : Part) (a : Append) : p.Inside (p.openSegment a) := by
  unfold Part.openSegment
  split
  · exact p.inside_reserveUnmet a
  · split
    · exact p.inside_endAppend a (.inl (by simp))
    · split
      · exact p.inside_reserveUnmet a
      · next s hs =>
        have htaken : p.Inside ((p.takeOpening s).setAppend { a with step := .opening s }) := .of_outside rfl
        have hpresent := (p.present_iff _).1 (Part.rotation_present hs)
        exact (htaken.trans (Part.inside_place _ _ (.inl hpresent))).trans (.of_reclaims (Part.reclaims_compareLow _))

theorem Part.inside_onward (p : Part) (a : Append) : p.Inside (p.onward a) := by
  unfold Part.onward
  split
  · exact p.inside_setBackNow _ a
  · exact p.inside_openSegment a

theorem Part.inside_closeEnds (p : Part) (s : SegAddr) (cause : CloseCause) (o : ProgEnd) (a : Append) :
    p.Inside (p.closeEnds s cause o a) := by
  have hreleased : ∀ q : Part, p.Inside q → p.Inside (if (p.seg s).state = .head then q.releaseIfClosed s else q) := by
    intro q hq
    split
    · exact hq.trans (.of_reclaims (Part.reclaims_releaseIfClosed q s))
    · exact hq
  have hclosed := hreleased { p.modSeg s (SegEntry.closedBy cause o) with head.recordsInHead := 0 } (.of_outside rfl)
  cases cause with
  | secondFailure => exact hclosed.trans (Part.inside_endAppend _ a (.inl (by simp)))
  | noRoom => exact hclosed.trans (Part.inside_onward _ a)
  | firstFailure => exact hclosed.trans (Part.inside_onward _ a)

/-- A program that a lane loss ended (R134). -/
theorem Part.inside_programEnds (p : Part) {o : ProgEnd} (h : o = .laneOffline ∨ o = .laneTimeout) : p.Inside (p.programEnds o) := by
  unfold Part.programEnds
  split
  · exact .refl p
  · next a _ =>
    split
    · exact .refl p
    · exact p.inside_closeEnds _ _ o a
    · rcases h with rfl | rfl <;> exact (p.inside_modSeg _ _).trans (Part.inside_onward _ a)
    · rcases h with rfl | rfl <;> exact p.inside_endAppend a (.inl (by simp))

/-! ### The reports of erases -/

theorem Part.inside_reportErase (p : Part) (a : SegAddr) (rep : EraseReport) : p.Inside (p.reportErase a rep) := by
  have hattached : p.Inside (p.reportAttached a rep) := by
    unfold Part.reportAttached
    split
    · exact .refl p
    · split
      · exact (Part.inside_complete _ _ _).after rfl
      · exact .refl p
  refine hattached.trans ?_
  show (p.reportAttached a rep).Inside ((p.reportAttached a rep).reportFormat a rep)
  unfold Part.reportFormat
  split
  · exact .refl _
  · split
    · simp only
      split
      · exact (Part.inside_complete _ _ _).after rfl
      · exact .of_outside rfl
    · exact .refl _

theorem Part.inside_foldl {α : Type} {f : Part → α → Part} (hf : ∀ (q : Part) a, q.Inside (f q a)) (xs : List α) (p : Part) :
    p.Inside (xs.foldl f p) := by
  induction xs generalizing p with
  | nil => exact .refl p
  | cons x xs ih => exact (hf p x).trans (ih _)

theorem Part.inside_recheckCopyWait (p : Part) : p.Inside p.recheckCopyWait := by
  unfold Part.recheckCopyWait
  split
  · exact .of_reclaims p.reclaims_haltReclaim
  · exact .refl p

theorem Part.inside_reclaimLoses (p : Part) (lost : List Lane) : p.Inside (p.reclaimLoses lost) := by
  unfold Part.reclaimLoses
  split
  · exact .of_reclaims p.reclaims_haltReclaim
  · exact p.inside_recheckCopyWait

theorem Part.inside_abandonHead (p : Part) (lost : List Lane) : p.Inside (p.abandonHead lost) := by
  unfold Part.abandonHead
  split
  · exact .refl p
  · split
    · exact (Part.Inside.of_reclaims (Part.reclaims_releaseIfClosed _ _)).after rfl
    · exact .refl p

/-- What follows once the lost lanes' records are OFFLINE and the notice is raised. -/
theorem Part.inside_tablesLose (p : Part) (lost : List Lane) : ((p.dropLanes lost).raise .laneOffline).Inside (p.tablesLose lost) := by
  have habandon := Part.inside_abandonHead ((p.dropLanes lost).raise .laneOffline) lost
  have hreported : ∀ q : Part, q.Inside ((q.reportLost lost).reclaimLoses lost) := fun q =>
    (Part.inside_foldl (fun r a => r.inside_reportErase a .neither) _ q).trans (Part.inside_reclaimLoses _ _)
  simp only [Part.tablesLose]
  split
  · exact (habandon.trans (.of_reclaims (Part.reclaims_compareLow _))).trans (hreported _)
  · exact habandon.trans (hreported _)

/-! ### The mount engine -/

/-- A request is needed of a lane that is not yet known or PRESENT alone (R166, R167). -/
theorem Part.mountOp_state {p : Part} {l : Lane} {op : StoreOp} (h : p.mountOp l = some op) :
    (p.lane l).state = .present ∨ (p.lane l).state = .unknown := by
  have hknown : ∀ hnot : (p.lane l).state = .absent ∨ (p.lane l).state = .offline, p.mountOp l = none := by
    intro hnot
    have habsent : p.present l = false := by rcases hnot with hs | hs <;> simp [Part.present, hs]
    unfold Part.mountOp
    split
    · rcases hnot with hs | hs <;> simp [hs]
    · rcases hnot with hs | hs <;> simp [hs]
    · split <;> simp [habsent]
    · rfl
    · rfl
  cases hs : (p.lane l).state with
  | unknown => exact .inr rfl
  | present => exact .inl rfl
  | absent => rw [hknown (.inl hs)] at h; simp at h
  | offline => rw [hknown (.inr hs)] at h; simp at h

theorem Part.inside_placeMount (p : Part) (l : Lane) : p.Inside (p.placeMount l) := by
  unfold Part.placeMount
  split
  · exact .refl p
  · next op hop =>
    split
    · exact .refl p
    · exact Part.inside_place _ _ (Part.mountOp_state hop)

theorem Part.inside_placeMountAll (p : Part) : p.Inside p.placeMountAll :=
  (((p.inside_placeMount 0).trans (Part.inside_placeMount _ 1)).trans (Part.inside_placeMount _ 2)).trans
    (Part.inside_placeMount _ 3)

theorem Part.inside_endMount (p : Part) (st : MountState) (code : Nat) : p.Inside (p.endMount st code) := by
  have hstored : ∀ (q : Part) (bytes : List Byte), q.Inside ((q.store 0 bytes).raise .mountEnded) := fun q bytes =>
    (Part.Inside.of_reclaims (Part.reclaims_raise _ _)).after rfl
  have hended : p.Inside { p with mount.state := st, mount.step := .ended, mount.walk := none, mount.outcome := code } :=
    .of_outside rfl
  simp only [Part.endMount]
  split
  · exact (hended.trans (hstored _ _)).trans (.of_reclaims (Part.reclaims_compareLow _))
  · exact hended.trans (hstored _ _)

theorem Part.inside_failMount (p : Part) (code : Nat) : p.Inside (p.failMount code) := by
  have hcut : ∀ q : Part, q.Inside q.cutWalk := fun (q : Part) => by
    unfold Part.cutWalk
    split
    · exact .refl q
    · exact q.inside_modSeg _ _
  have hmapped : p.Inside (p.mapSegs fun _ e => e.unwalked p.walkEpoch) := .of_outside rfl
  unfold Part.failMount
  exact (hmapped.trans (hcut _)).trans ((Part.inside_endMount _ _ _).after rfl)

theorem Part.inside_restoreHead (p : Part) : p.Inside p.restoreHead := by
  unfold Part.restoreHead
  split
  · exact .of_outside rfl
  · simp only
    split <;> exact .of_outside rfl

theorem Part.inside_completeTables (p : Part) : p.Inside p.completeTables := by
  have htables : p.Inside p.computeClaims.restoreHead := (Part.inside_restoreHead _).after rfl
  simp only [Part.completeTables]
  split <;> exact htables.trans (Part.inside_endMount _ _ _)

theorem Part.inside_finishTrailered (p : Part) (a : SegAddr) (n : Nat) : p.Inside (p.finishTrailered a n) := by
  simp only [Part.finishTrailered]
  split
  · split <;> exact .of_outside rfl
  · exact .of_outside rfl

theorem Part.inside_lostMember (p : Part) (a : SegAddr) : p.Inside (p.lostMember a) := by
  simp only [Part.lostMember]
  split <;> exact .of_outside rfl

theorem Part.inside_walkMembers (n : Nat) (after : Long) (p : Part) : p.Inside (p.walkMembers n after) := by
  induction n generalizing p after with
  | zero => exact .refl p
  | succ n ih =>
    unfold Part.walkMembers
    split
    · exact p.inside_completeTables
    · split
      · exact (p.inside_finishTrailered _ _).trans (ih _ _)
      · split
        · exact (p.inside_lostMember _).trans (ih _ _)
        · exact .of_outside rfl

theorem Part.inside_nextWalk (p : Part) (w : MountWalk) : p.Inside (p.nextWalk w) :=
  (Part.inside_walkMembers _ _ _).after rfl

theorem Part.inside_endIdentify (p : Part) : p.Inside p.endIdentify := by
  unfold Part.endIdentify
  split
  · split
    · exact .of_outside rfl
    · exact p.inside_failMount _
  · exact .refl p

theorem Part.inside_endHeaders (p : Part) : p.Inside p.endHeaders := by
  unfold Part.endHeaders
  split
  · exact p.inside_failMount _
  · split
    · exact p.inside_failMount _
    · exact (Part.inside_walkMembers _ _ _).after rfl

theorem Part.inside_mountProgress (p : Part) : p.Inside p.mountProgress := by
  unfold Part.mountProgress
  split
  · simp only
    split
    · exact (p.inside_endIdentify.trans (Part.inside_endHeaders _)).trans (Part.inside_placeMountAll _)
    · exact p.inside_endIdentify.trans (Part.inside_placeMountAll _)
  · exact .refl p

theorem Quad.get_set {α : Type} (q : Quad α) (l k : Lane) (x : α) : (q.set l x).get k = if k = l then x else q.get k := by
  by_cases h : k = l
  · subst h; rw [Quad.get_set_same, if_pos rfl]
  · rw [Quad.get_set_other _ _ h, if_neg h]

/-- A lane's header step changed, its IDENTIFY ended as it was. -/
theorem Part.inside_setLaneMount (p : Part) (l : Lane) {lm : LaneMount}
    (h : (p.mount.lanes.get l).identEnded = true → lm.identEnded = true) : p.Inside (p.setLaneMount l lm) where
  power := rfl
  seen := rfl
  bus := rfl
  raised := BitVec.or_self
  lanes := .of_eq rfl
  identified k hk := by
    show ((p.mount.lanes.set l lm).get k).identEnded = true
    rw [Quad.get_set]
    split
    · next hkl => exact h (hkl ▸ hk)
    · exact hk

theorem Part.inside_loseHeaders (p : Part) (l : Lane) : p.Inside (p.loseHeaders l) := by
  have hlost : ∀ q : Part, q.outside = p.outside →
      p.Inside (q.setLaneMount l ⟨(p.mount.lanes.get l).identEnded, (p.lane l).count, .line0⟩) := fun q hq => by
    have hlanes : q.mount.lanes = p.mount.lanes := congrArg (fun x => x.2.2.2.2) hq
    refine Part.Inside.after (q.inside_setLaneMount l fun h => ?_) hq
    rwa [hlanes] at h
  unfold Part.loseHeaders
  simp only
  split
  · exact .refl p
  · split <;> exact hlost _ rfl

theorem Part.inside_loseWalk (p : Part) : p.Inside p.loseWalk := by
  unfold Part.loseWalk
  split
  · exact .refl p
  · split
    · exact .refl p
    · exact (Part.inside_nextWalk _ _).after rfl

theorem Part.inside_mountLoses (p : Part) (lost : List Lane) : p.Inside (p.mountLoses lost) := by
  have hheaders : p.Inside (lost.foldl (fun q l => q.loseHeaders l) p).mountProgress :=
    (Part.inside_foldl (fun q l => q.inside_loseHeaders l) lost p).trans (Part.inside_mountProgress _)
  unfold Part.mountLoses
  split
  · split
    · exact hheaders
    · exact hheaders
    · exact p.inside_loseWalk.trans (Part.inside_mountProgress _)
    · exact .refl p
    · exact .refl p
  · exact .refl p

/-! ### The loss -/

theorem Part.inside_recordLoses (p : Part) (why : Option Reason) : p.Inside (p.recordLoses why) := by
  unfold Part.recordLoses
  split
  · exact p.inside_getLost _
  · exact .refl p

theorem Part.inside_scanLoses (p : Part) (why : Option Reason) : p.Inside (p.scanLoses why) := by
  unfold Part.scanLoses
  split
  · exact p.inside_scanLost
  · exact .refl p

theorem Part.inside_headLoses (p : Part) (why : Option Reason) : p.Inside (p.headLoses why) := by
  unfold Part.headLoses
  split
  · exact p.inside_programEnds (.inr rfl)
  · exact p.inside_programEnds (.inl rfl)
  · exact .refl p

/-- What a loss of lanes does beyond their own records and the notice. -/
theorem Part.inside_loseLanes (p : Part) {lost : List Lane} (why : Reason) (h : lost ≠ []) :
    ((p.dropLanes lost).raise .laneOffline).Inside (p.loseLanes lost why) := by
  unfold Part.loseLanes
  rw [if_neg (by simpa using h)]
  exact ((((p.inside_tablesLose lost).trans (Part.inside_mountLoses _ _)).trans (Part.inside_recordLoses _ _)).trans
    (Part.inside_scanLoses _ _)).trans (Part.inside_headLoses _ _)

end Sys2Proof.Machine
end

section
/-! SUPPORT. Quiet and parks, the levels of a CONTROL write, and the commands that power control's acts answer (R177 to R185). -/

namespace Sys2Proof.Machine

/-! ## Commands that the part takes -/

/-- A command that is an event inside the part, while the part takes events. -/
theorem run_act_live {f : Part → Part} {s : State} (h : s.part.live = true) :
    run (Part.act f) s = .next (s.withPart (f s.part).refreshErase) := by
  rw [run_next, act_of_live h]
  rfl

/-- A change of a pin that the part sees. -/
theorem run_pinEvent_live {pin see : Part → Part} {s : State} (h : (pin s.part).live = true) :
    run (Part.pinEvent pin see) s = .next (s.withPart (see (pin s.part)).refreshErase) := by
  rw [run_next, Part.pinEvent, act_of_live h]
  rfl

theorem Part.live_of_writeValue {p : Part} {r : Reg} {d v : Word} (h : p.writeValue r d = some v) : p.live = true := by
  unfold Part.writeValue at h
  split at h
  · next hs =>
    rw [Part.served, Bool.and_eq_true] at hs
    exact hs.1
  · simp at h

theorem Part.resetHigh_of_live {p : Part} (h : p.live = true) : p.power.resetLow = false := by
  simp only [Part.live, Bool.and_eq_true, Bool.not_eq_true'] at h
  exact h.1.1

theorem Part.not_stopped_of_live {p : Part} (h : p.live = true) : p.power.state ≠ .stopped := by
  simp only [Part.live, Bool.and_eq_true, bne_iff_ne] at h
  exact h.2

theorem Part.active_iff (p : Part) : p.active = true ↔ p.power.state = .active := by simp [Part.active]

theorem Part.active_eq_false_iff (p : Part) : p.active = false ↔ p.power.state ≠ .active := by simp [Part.active]

/-! ## Bus levels -/

theorem Bus.levels_eq_of_withoutSticky {a b : Bus} (h : a.withoutSticky = b.withoutSticky) :
    a.holdLevel = b.holdLevel ∧ a.parkLevel = b.parkLevel :=
  ⟨(congrArg Bus.holdLevel h :), (congrArg Bus.parkLevel h :)⟩

theorem Bus.eq_of_withoutSticky {a b : Bus} (h : a.withoutSticky = b.withoutSticky) (hs : a.sticky = b.sticky) : a = b := by
  obtain ⟨⟩ := a
  obtain ⟨⟩ := b
  simp only [Bus.withoutSticky, Bus.mk.injEq] at h hs ⊢
  simp_all

/-! ## Quiet and park (R181, R182) -/

/-- With nothing in flight and no append in progress in HOLD or BRACE, a pending park is entered. -/
def Part.parks (p : Part) : Bool := p.contained && p.quiet && p.power.parkPending

theorem Part.contained_iff (p : Part) : p.contained = true ↔ p.power.state = .hold ∨ p.power.state = .brace := by
  simp [Part.contained]

theorem Part.quiet_iff (p : Part) : p.quiet = true ↔ p.lanesIdle = true ∧ p.head.append = none := by
  show (p.lanesIdle && p.head.append.isNone) = true ↔ _
  rw [Bool.and_eq_true, Option.isNone_iff_eq_none]

/-- Quiet noticed, where it was not yet (R181). -/
def Part.quietNoted (p : Part) : Part := if p.power.quietSeen then p else p.noteQuiet

theorem Part.noteQuiet_eq (p : Part) : p.noteQuiet = { p with
    power.quietSeen := true, bus.sticky := p.bus.sticky ||| (if p.power.state = .brace then 0x40 else 0) } := by
  simp only [Part.noteQuiet]
  split
  · rfl
  · rw [show p.bus.sticky ||| (0 : Byte) = p.bus.sticky from BitVec.or_zero]

theorem Part.quietNoted_eq (p : Part) : p.quietNoted = if p.power.quietSeen then p else { p with
    power.quietSeen := true, bus.sticky := p.bus.sticky ||| (if p.power.state = .brace then 0x40 else 0) } := by
  rw [Part.quietNoted, Part.noteQuiet_eq]

/-- The mount engine's waiting requests are withdrawn on every lane. -/
def LaneRec.withoutMount (r : LaneRec) : LaneRec := { r with waiting.mount := none }

theorem Part.enterPark_eq (p : Part) : p.enterPark = { p with
    power.state := .park, power.parkPending := false, mount.settle := false, lanes := p.lanes.map LaneRec.withoutMount } := rfl

theorem Part.watchQuiet_of_not_ready {p : Part} (h : ¬ (p.contained = true ∧ p.quiet = true)) : p.watchQuiet = p := by
  unfold Part.watchQuiet
  rw [if_neg (by rwa [Bool.and_eq_true])]

theorem Part.watchQuiet_of_ready {p : Part} (hc : p.contained = true) (hq : p.quiet = true) :
    p.watchQuiet = if p.power.parkPending then p.quietNoted.enterPark else p.quietNoted := by
  have hpending : p.quietNoted.power.parkPending = p.power.parkPending := by
    rw [Part.quietNoted_eq]
    split <;> rfl
  unfold Part.watchQuiet
  rw [if_pos (by rw [hc, hq]; rfl)]
  show (if p.quietNoted.power.parkPending then p.quietNoted.enterPark else p.quietNoted) = _
  rw [hpending]

/-- The three ways the watch for quiet ends: nothing to notice, quiet noticed, and the park. -/
theorem Part.watchQuiet_cases (p : Part) :
    (p.parks = false ∧ p.watchQuiet = p) ∨ (p.parks = false ∧ p.watchQuiet = p.quietNoted)
      ∨ (p.parks = true ∧ p.watchQuiet = p.quietNoted.enterPark) := by
  by_cases hready : p.contained = true ∧ p.quiet = true
  · obtain ⟨hc, hq⟩ := hready
    rw [Part.watchQuiet_of_ready hc hq, Part.parks, hc, hq]
    cases hpending : p.power.parkPending with
    | true => exact .inr (.inr ⟨rfl, rfl⟩)
    | false => exact .inr (.inl ⟨rfl, rfl⟩)
  · refine .inl ⟨?_, Part.watchQuiet_of_not_ready hready⟩
    rw [← Bool.and_eq_true, Bool.not_eq_true] at hready
    rw [Part.parks, hready, Bool.false_and]

@[simp] theorem Part.quietNoted_frame (p : Part) :
    p.quietNoted.pins = p.pins ∧ p.quietNoted.seen = p.seen ∧ p.quietNoted.zeroing = p.zeroing ∧ p.quietNoted.mem = p.mem
    ∧ p.quietNoted.orders = p.orders ∧ p.quietNoted.format = p.format ∧ p.quietNoted.record = p.record
    ∧ p.quietNoted.scan = p.scan ∧ p.quietNoted.head = p.head ∧ p.quietNoted.dir = p.dir ∧ p.quietNoted.segs = p.segs
    ∧ p.quietNoted.lastHeadLane = p.lastHeadLane ∧ p.quietNoted.lanes = p.lanes ∧ p.quietNoted.reclaim = p.reclaim
    ∧ p.quietNoted.mount = p.mount ∧ p.quietNoted.freeIndex = p.freeIndex
    ∧ p.quietNoted.power = { p.power with quietSeen := true } := by
  rw [Part.quietNoted_eq]
  split
  · next h =>
    refine ⟨rfl, rfl, rfl, rfl, rfl, rfl, rfl, rfl, rfl, rfl, rfl, rfl, rfl, rfl, rfl, rfl, ?_⟩
    rw [← h]
  · exact ⟨rfl, rfl, rfl, rfl, rfl, rfl, rfl, rfl, rfl, rfl, rfl, rfl, rfl, rfl, rfl, rfl, rfl⟩

@[simp] theorem Part.watchQuiet_frame (p : Part) :
    p.watchQuiet.pins = p.pins ∧ p.watchQuiet.seen = p.seen ∧ p.watchQuiet.zeroing = p.zeroing ∧ p.watchQuiet.mem = p.mem
    ∧ p.watchQuiet.format = p.format ∧ p.watchQuiet.record = p.record
    ∧ p.watchQuiet.scan = p.scan ∧ p.watchQuiet.head = p.head ∧ p.watchQuiet.dir = p.dir ∧ p.watchQuiet.segs = p.segs
    ∧ p.watchQuiet.lastHeadLane = p.lastHeadLane ∧ p.watchQuiet.reclaim = p.reclaim
    ∧ p.watchQuiet.freeIndex = p.freeIndex := by
  rcases p.watchQuiet_cases with ⟨_, h⟩ | ⟨_, h⟩ | ⟨_, h⟩ <;> simp [h, Part.enterPark_eq]

/-- What the watch for quiet leaves of power control. -/
@[simp] theorem Part.watchQuiet_power_frame (p : Part) :
    p.watchQuiet.power.clearPending = p.power.clearPending ∧ p.watchQuiet.power.wake = p.power.wake
    ∧ p.watchQuiet.power.returnCounting = p.power.returnCounting ∧ p.watchQuiet.power.clockRunning = p.power.clockRunning
    ∧ p.watchQuiet.power.resetLow = p.power.resetLow := by
  rcases p.watchQuiet_cases with ⟨_, h⟩ | ⟨_, h⟩ | ⟨_, h⟩ <;> simp [h, Part.enterPark_eq]

theorem Part.watchQuiet_state (p : Part) : p.watchQuiet.power.state = if p.parks then .park else p.power.state := by
  rcases p.watchQuiet_cases with ⟨hp, h⟩ | ⟨hp, h⟩ | ⟨hp, h⟩ <;> simp [h, hp, Part.enterPark_eq]

theorem Part.watchQuiet_parkPending (p : Part) :
    p.watchQuiet.power.parkPending = (p.power.parkPending && !p.parks) := by
  rcases p.watchQuiet_cases with ⟨hp, h⟩ | ⟨hp, h⟩ | ⟨hp, h⟩ <;> simp [h, hp, Part.enterPark_eq]

theorem Part.watchQuiet_lane (p : Part) (l : Lane) :
    p.watchQuiet.lane l = if p.parks then (p.lane l).withoutMount else p.lane l := by
  rcases p.watchQuiet_cases with ⟨hp, h⟩ | ⟨hp, h⟩ | ⟨hp, h⟩
  · rw [h, hp]; rfl
  · rw [h, hp]; simp [Part.lane]
  · rw [h, hp, Part.enterPark_eq]
    simp [Part.lane, Quad.get_map]

theorem Part.watchQuiet_mount (p : Part) :
    p.watchQuiet.mount = if p.parks then { p.mount with settle := false } else p.mount := by
  rcases p.watchQuiet_cases with ⟨hp, h⟩ | ⟨hp, h⟩ | ⟨hp, h⟩ <;> simp [h, hp, Part.enterPark_eq]

theorem Part.quietNoted_sticky (p : Part) : p.quietNoted.bus.sticky ||| p.bus.sticky = p.quietNoted.bus.sticky := by
  rw [Part.quietNoted_eq]
  split
  · exact BitVec.or_self
  · show p.bus.sticky ||| _ ||| p.bus.sticky = p.bus.sticky ||| _
    rw [BitVec.or_assoc, BitVec.or_comm _ p.bus.sticky, ← BitVec.or_assoc, BitVec.or_self]

/-- The watch for quiet raises notices at most. -/
theorem Part.watchQuiet_raised (p : Part) : p.watchQuiet.bus.sticky ||| p.bus.sticky = p.watchQuiet.bus.sticky := by
  rcases p.watchQuiet_cases with ⟨_, h⟩ | ⟨_, h⟩ | ⟨_, h⟩ <;> rw [h]
  · exact BitVec.or_self
  · exact p.quietNoted_sticky
  · exact p.quietNoted_sticky

theorem Part.watchQuiet_levels (p : Part) :
    p.watchQuiet.bus.holdLevel = p.bus.holdLevel ∧ p.watchQuiet.bus.parkLevel = p.bus.parkLevel :=
  Bus.levels_eq_of_withoutSticky p.watchQuiet_withoutSticky

/-- Once a flag's bit is set, notices raised later keep it. -/
theorem sticky_kept {a b m : Byte} (h : b ||| a = b) (hm : a &&& m = m) : b &&& m = m := by
  rw [← h, ← hm]
  ext i hi
  simp only [BitVec.getElem_and, BitVec.getElem_or]
  cases a[i] <;> cases m[i] <;> simp

/-! ## A change to HOLD or BRACE (R180) -/

theorem Part.requestSetBack_idle {p : Part} (h : p.head.append = none) (cause : SetBack) : p.requestSetBack cause = p := by
  simp [Part.requestSetBack, h]

theorem Part.enterContained_idle {p : Part} (st : PowerState) (h : p.head.append = none) :
    p.enterContained st = Part.watchQuiet { p with power.state := st, power.quietSeen := false } := by
  rw [Part.enterContained, Part.requestSetBack_idle (by exact h)]

/-- In a containment with no append in progress a park is entered exactly when one is pending and the lanes are idle. -/
theorem Part.parks_contained {p : Part} (hc : p.power.state = .hold ∨ p.power.state = .brace) (ha : p.head.append = none) :
    p.parks = (p.lanesIdle && p.power.parkPending) := by
  have hquiet : p.quiet = p.lanesIdle := by
    show (p.lanesIdle && p.head.append.isNone) = p.lanesIdle
    rw [ha, Option.isNone_none, Bool.and_true]
  rw [Part.parks, p.contained_iff.2 hc, hquiet, Bool.true_and]

/-! ## CONTROL (R178) -/

theorem exec_hold {s : State} {d v : Word} (h : s.part.writeValue .control d = some v) : exec (.hold d) s
    = .next (s.withPart (((s.part.controlLevels v).controlClear v).controlCut v).refreshErase) := by
  show execHold d s = _
  simp only [execHold, run_next, Part.writeAccess, h]
  rfl

theorem exec_park {s : State} {d v : Word} (h : s.part.writeValue .control d = some v) : exec (.park d) s
    = .next (s.withPart (((s.part.controlLevels v).controlCut v).controlClear v).refreshErase) := by
  show execPark d s = _
  simp only [execPark, run_next, Part.writeAccess, h]
  rfl

theorem exec_clear {s : State} {d v : Word} (h : s.part.writeValue .control d = some v) : exec (.clear d) s
    = .next (s.withPart ((((s.part.controlClear v).controlLevels v).clearBeforeCut v).controlCut v).refreshErase) := by
  show execClear d s = _
  simp only [execClear, run_next, Part.writeAccess, h]
  rfl

theorem exec_cut {s : State} {d v : Word} (h : s.part.writeValue .control d = some v) : exec (.cut d) s
    = .next (s.withPart (((s.part.controlCut v).controlLevels v).controlClear v).refreshErase) := by
  show execCut d s = _
  simp only [execCut, run_next, Part.writeAccess, h]
  rfl

theorem Part.controlClear_off (p : Part) {v : Word} (h : v.getLsbD 2 = false) : p.controlClear v = p := by
  rw [Part.controlClear, h]
  rfl

theorem Part.controlClear_on (p : Part) {v : Word} (h : v.getLsbD 2 = true) : p.controlClear v = p.requestClear := by
  rw [Part.controlClear, h]
  rfl

theorem Part.controlCut_off (p : Part) {v : Word} (h : v.getLsbD 3 = false) : p.controlCut v = p := by
  rw [Part.controlCut, h]
  rfl

theorem Part.controlCut_on (p : Part) {v : Word} (h : v.getLsbD 3 = true) : p.controlCut v = p.cutScan := by
  rw [Part.controlCut, h]
  rfl

theorem Part.clearBeforeCut_off (p : Part) {v : Word} (h : v.getLsbD 2 = false ∨ v.getLsbD 3 = false) : p.clearBeforeCut v = p := by
  unfold Part.clearBeforeCut
  rcases h with h | h <;> rw [h]
  · rfl
  · rw [Bool.and_false]
    rfl

/-- With CLEAR and CUT 0 the four rows are one command. -/
theorem exec_controlRow_levels {s : State} {d v : Word} (hv : s.part.writeValue .control d = some v) (h : levelsOnly v)
    {c : Instr} (hc : c ∈ controlRows d) : exec c s = .next (s.withPart (s.part.controlLevels v).refreshErase) := by
  obtain ⟨h2, h3⟩ := h
  simp only [controlRows, List.mem_cons, List.not_mem_nil, or_false] at hc
  rcases hc with rfl | rfl | rfl | rfl
  · rw [exec_hold hv, Part.controlClear_off _ h2, Part.controlCut_off _ h3]
  · rw [exec_park hv, Part.controlCut_off _ h3, Part.controlClear_off _ h2]
  · rw [exec_clear hv, Part.controlClear_off _ h2, Part.clearBeforeCut_off _ (.inl h2), Part.controlCut_off _ h3]
  · rw [exec_cut hv, Part.controlCut_off _ h3, Part.controlClear_off _ h2]

/-- The part with the levels of a CONTROL write kept, and with what they ask of a park. -/
def Part.levelled (v : Word) (p : Part) : Part :=
  { p with bus.holdLevel := v.getLsbD 0, bus.parkLevel := v.getLsbD 1, power.parkPending := v.getLsbD 1 }

theorem Part.controlLevels_active {p : Part} (v : Word) (h : p.power.state = .active) : p.controlLevels v =
    if v.getLsbD 0 || v.getLsbD 1 then (p.levelled v).enterContained .hold else p.keepLevels (v.getLsbD 0) (v.getLsbD 1) := by
  have hstate : (p.keepLevels (v.getLsbD 0) (v.getLsbD 1)).power.state = .active := h
  simp only [Part.controlLevels, Part.actLevels, hstate]
  rfl

theorem Part.controlLevels_hold {p : Part} (v : Word) (h : p.power.state = .hold) : p.controlLevels v =
    if v.getLsbD 0 = false ∧ v.getLsbD 1 = false ∧ p.seen.pwarn = false ∧ p.power.clearPending = false then
      (p.levelled v).enterActive
    else (p.levelled v).watchQuiet := by
  have hstate : (p.keepLevels (v.getLsbD 0) (v.getLsbD 1)).power.state = .hold := h
  simp only [Part.controlLevels, Part.actLevels, hstate, Bool.and_eq_true, Bool.not_eq_true', and_assoc]
  simp only [Part.keepLevels, Part.levelled, h]
  rfl

theorem Part.controlLevels_brace {p : Part} (v : Word) (h : p.power.state = .brace) :
    p.controlLevels v = (p.levelled v).watchQuiet := by
  have hstate : (p.keepLevels (v.getLsbD 0) (v.getLsbD 1)).power.state = .brace := h
  simp only [Part.controlLevels, Part.actLevels, hstate]
  simp only [Part.keepLevels, Part.levelled, h]

theorem Part.controlLevels_park {p : Part} (v : Word) (h : p.power.state = .park) :
    p.controlLevels v = { p.keepLevels (v.getLsbD 0) (v.getLsbD 1) with
      power.wake := if v.getLsbD 1 then none else if p.power.wake.isSome then p.power.wake else some ⟨p.seen.storeGood⟩ } := by
  have hstate : (p.keepLevels (v.getLsbD 0) (v.getLsbD 1)).power.state = .park := h
  have hwake : (p.keepLevels (v.getLsbD 0) (v.getLsbD 1)).power.wake = p.power.wake := rfl
  simp only [Part.controlLevels, Part.actLevels, hstate, hwake]
  cases v.getLsbD 1 with
  | true => simp only [if_true, Part.keepLevels]
  | false =>
    cases hw : p.power.wake with
    | none => simp [Part.keepLevels, Part.beginWake, h]
    | some w =>
      simp only [Part.keepLevels, Option.isSome_some, if_true, Bool.false_eq_true, if_false]
      rw [← hw, ← h]

end Sys2Proof.Machine
end

section
/-! SUPPORT. Configuration intake, CONTROL's levels, quiet, wakes and PWARN (R102, R177 to R183). -/

namespace Sys2Proof.Machine

/-! ## Configuration intake (R51, R102) -/

/-- The low-water comparison does nothing before the mount has ended MOUNTED or DEGRADED, or with the free count above the mark. -/
theorem Part.compareLow_above {p : Part} (h : p.mounted = false ∨ p.orders.lowMark < p.freeCount) : p.compareLow = p := by
  unfold Part.compareLow
  rw [if_neg]
  rcases h with h | h
  · simp [h]
  · simp [Part.lowWater, h]

theorem Part.noteAdjusted_eq (p : Part) (v w : Nat) : p.noteAdjusted v w =
    { p with bus.sticky := if v = w then p.bus.sticky else p.bus.sticky ||| 0x80 } := by
  unfold Part.noteAdjusted
  split <;> rfl

theorem Part.takeWord_low {p : Part} (v : Word) (h : p.orders.intake = .low) : p.takeWord v =
    (({ p with orders.lowMark := wordInForce v.toNat 2 32 4, orders.intake := .high } : Part).noteAdjusted v.toNat
      (wordInForce v.toNat 2 32 4)).postOutcome .configTaken := by
  unfold Part.takeWord
  rw [h]

theorem Part.takeWord_high {p : Part} (v : Word) (h : p.orders.intake = .high) :
    let w := wordInForce v.toNat (p.orders.lowMark + 1) 64 (max 8 (p.orders.lowMark + 1))
    p.takeWord v = (({ p with orders.highMark := w, orders.intake := .post } : Part).noteAdjusted v.toNat w).postOutcome
      .configTaken := by
  intro w
  unfold Part.takeWord
  rw [h]

theorem Part.takeWord_post {p : Part} (v : Word) (h : p.orders.intake = .post) :
    let w := wordInForce v.toNat 1 16 12
    p.takeWord v = (({ p with orders.postMark := w, orders.intake := .ended } : Part).noteAdjusted v.toNat w).postOutcome
      .configTaken := by
  intro w
  unfold Part.takeWord
  rw [h]

/-- Before intake has ended a POST write is taken as a configuration word, and only the third word brings the comparison. -/
theorem Part.takePost_word {p : Part} (v : Word) (h : p.orders.intake ≠ .ended) : p.takePost v =
    if (p.takeWord v).orders.intake = .ended then (p.takeWord v).compareLow.refreshErase else p.takeWord v := by
  rw [Part.takePost, if_neg h]
  rfl

/-- Settles O18. -/
theorem intakeTakesWords : Obligations.IntakeTakesWords := by
  refine ⟨fun p h => Part.compareLow_above h, fun s d v hv => ⟨fun hlow => ?_, fun hhigh => ?_, fun hpost => ?_⟩⟩
  · rw [exec_post hv, Part.takePost_word v (by rw [hlow]; simp), Part.takeWord_low v hlow, Part.noteAdjusted_eq,
      if_neg (by simp)]
    rfl
  · rw [exec_post hv, Part.takePost_word v (by rw [hhigh]; simp), Part.takeWord_high v hhigh, Part.noteAdjusted_eq,
      if_neg (by simp)]
    rfl
  · rw [exec_post hv, Part.takePost_word v (by rw [hpost]; simp), Part.takeWord_post v hpost, Part.noteAdjusted_eq,
      if_pos (by simp)]
    rfl

/-! ## The return to ACTIVE (R145, R151) -/

/-- With nothing latched the return to ACTIVE means nothing to the reclaim unit. -/
theorem Part.reclaimReturns_nothing {p : Part} (ht : p.reclaim.latchedTrigger = false) (hr : p.reclaim.releasePending = false) :
    p.reclaimReturns = p := by
  obtain ⟨_, _, _, _, _, _, _, _, _, _, _, _, _, _, ⟨state, tail, pos, copied, inHand, copyWait, origin, attached, latched,
    released, suspended⟩, _, _, _⟩ := p
  obtain rfl : latched = false := ht
  obtain rfl : released = false := hr
  cases state <;> rfl

theorem Part.scanBoundary_none {p : Part} (h : p.scan = none) : p.scanBoundary = p := by
  unfold Part.scanBoundary
  rw [h]

theorem Part.inside_enterActive (p : Part) : ({ p with power.state := .active } : Part).Inside p.enterActive :=
  (Part.Inside.of_reclaims (Part.reclaims_reclaimReturns _)).trans (Part.inside_scanBoundary _)

/-- What the watch for quiet leaves and what it makes of the power state, the erase requests following it. -/
theorem Part.watchQuiet_outcome (q : Part) :
    q.watchQuiet.refreshErase.power.state = (if q.parks then .park else q.power.state)
    ∧ q.watchQuiet.refreshErase.power.parkPending = (q.power.parkPending && !q.parks)
    ∧ q.watchQuiet.refreshErase.bus.holdLevel = q.bus.holdLevel ∧ q.watchQuiet.refreshErase.bus.parkLevel = q.bus.parkLevel
    ∧ q.watchQuiet.refreshErase.mem = q.mem ∧ q.watchQuiet.refreshErase.orders = q.orders
    ∧ q.watchQuiet.refreshErase.record = q.record ∧ q.watchQuiet.refreshErase.scan = q.scan
    ∧ q.watchQuiet.refreshErase.head = q.head ∧ q.watchQuiet.refreshErase.dir = q.dir
    ∧ q.watchQuiet.refreshErase.segs = q.segs ∧ q.watchQuiet.refreshErase.reclaim = q.reclaim
    ∧ q.watchQuiet.refreshErase.power.clearPending = q.power.clearPending := by
  obtain ⟨hhold, hpark⟩ := q.watchQuiet_levels
  simp [hhold, hpark, Part.watchQuiet_state, Part.watchQuiet_parkPending]

/-! ## The levels (R178) -/

/-- In HOLD or BRACE the levels' park is entered when the lanes are idle and no append is in progress. -/
theorem Part.levelled_parks {p : Part} (v : Word) (h : p.power.state = .hold ∨ p.power.state = .brace) :
    (p.levelled v).parks = (v.getLsbD 1 && p.lanesIdle && p.head.append.isNone) := by
  have hcontained : (p.levelled v).contained = true := ((p.levelled v).contained_iff).2 h
  rw [Part.parks, hcontained, Bool.true_and, Bool.and_comm, Bool.and_assoc]
  rfl

theorem Part.levelled_parks_off {p : Part} {v : Word} (h1 : v.getLsbD 1 = false) : (p.levelled v).parks = false := by
  have hpending : (p.levelled v).power.parkPending = false := h1
  rw [Part.parks, hpending, Bool.and_false]

/-- The return to ACTIVE keeps the levels and what was asked of a park. -/
theorem Part.enterActive_outcome (q : Part) :
    q.enterActive.refreshErase.power.state = .active
    ∧ q.enterActive.refreshErase.power.parkPending = q.power.parkPending
    ∧ q.enterActive.refreshErase.bus.holdLevel = q.bus.holdLevel
    ∧ q.enterActive.refreshErase.bus.parkLevel = q.bus.parkLevel := by
  have hinside := q.inside_enterActive
  obtain ⟨hhold, hpark⟩ := Bus.levels_eq_of_withoutSticky hinside.bus
  simp [hhold, hpark, hinside.power]

/-- With no SCAN held and nothing latched the return to ACTIVE changes the power state alone. -/
theorem Part.enterActive_nothing {q : Part} (hscan : q.scan = none) (ht : q.reclaim.latchedTrigger = false)
    (hr : q.reclaim.releasePending = false) : q.enterActive = { q with power.state := .active } := by
  rw [Part.enterActive, Part.reclaimReturns_nothing (by exact ht) (by exact hr), Part.scanBoundary_none (by exact hscan)]

/-- Settles O21. -/
theorem controlLevelsAct : Obligations.ControlLevelsAct := by
  refine ⟨fun s d v hv hl => ⟨fun c hc => ?_, fun hstate h0 h1 c hc => ?_⟩, fun s d v hv hl hstate hidle hlevel c hc => ?_,
    fun s d v hv hl hstate h0 h1 hpwarn c hc => ?_, ?_⟩
  · rw [exec_controlRow_levels hv hl hc, exec_controlRow_levels hv hl (c := .hold d) (by simp [controlRows])]
  · rw [exec_controlRow_levels hv hl hc, Part.controlLevels_active v hstate, h0, h1]
    rfl
  · refine ⟨_, exec_controlRow_levels hv hl hc, ?_⟩
    have hor : (v.getLsbD 0 || v.getLsbD 1) = true := by rwa [Bool.or_eq_true]
    rw [Part.controlLevels_active v hstate, if_pos hor, Part.enterContained_idle .hold (by exact hidle)]
    have houtcome := Part.watchQuiet_outcome { s.part.levelled v with power.state := .hold, power.quietSeen := false }
    rw [Part.parks_contained (.inl rfl) (by exact hidle), Bool.and_comm] at houtcome
    obtain ⟨hpower, hpending, hrest⟩ := houtcome
    refine ⟨hpower, hpending.trans ?_, hrest⟩
    show (v.getLsbD 1 && !(v.getLsbD 1 && s.part.lanesIdle)) = _
    cases v.getLsbD 1 <;> rfl
  · refine ⟨_, exec_controlRow_levels hv hl hc, ?_⟩
    rw [Part.controlLevels_hold v hstate]
    cases hclear : s.part.power.clearPending with
    | true =>
      have houtcome := Part.watchQuiet_outcome (s.part.levelled v)
      rw [Part.levelled_parks_off h1] at houtcome
      obtain ⟨hpower, hpending, hhold, hpark, hmem, horders, hrecord, hscan, hhead, hdir, hsegs, hreclaim, _⟩ := houtcome
      rw [if_neg (by simp)]
      refine ⟨hpending.trans ?_, hpower.trans hstate, hhold.trans h0, hpark.trans h1, fun hnoScan _ _ _ =>
        ⟨hmem, horders, hrecord, hscan.trans hnoScan, hhead, hdir, hsegs, hreclaim⟩⟩
      show (v.getLsbD 1 && true) = false
      rw [h1, Bool.false_and]
    | false =>
      rw [if_pos ⟨h0, h1, hpwarn, rfl⟩]
      obtain ⟨hpower, hpending, hhold, hpark⟩ := (s.part.levelled v).enterActive_outcome
      refine ⟨hpending.trans h1, hpower, hhold.trans h0, hpark.trans h1, fun hscan ht hr _ => ?_⟩
      rw [Part.enterActive_nothing (by exact hscan) (by exact ht) (by exact hr)]
      simp only [State.withPart, Part.refreshErase_frame]
      exact ⟨rfl, rfl, rfl, hscan, rfl, rfl, rfl, rfl⟩
  · intro s d v hv hl parks hstate c hc
    refine ⟨_, exec_controlRow_levels hv hl hc, ?_⟩
    have hcontained : s.part.power.state = .hold ∨ s.part.power.state = .brace := hstate.symm.imp And.left id
    have hlevels : s.part.controlLevels v = (s.part.levelled v).watchQuiet := by
      rcases hstate with hbrace | ⟨hhold, hlevel⟩
      · exact Part.controlLevels_brace v hbrace
      · rw [Part.controlLevels_hold v hhold, if_neg]
        rintro ⟨h0, h1, hpwarn, _⟩
        simp only [h0, h1, hpwarn, Bool.false_eq_true, or_self] at hlevel
    have houtcome := Part.watchQuiet_outcome (s.part.levelled v)
    rw [Part.levelled_parks v hcontained] at houtcome
    rw [hlevels]
    exact houtcome

/-- LANE_PWR in PARK follows the wake (R72). -/
theorem Part.lanePwr_park {p : Part} (hstate : p.power.state = .park) (hreset : p.power.resetLow = false) :
    p.lanePwr = p.power.wake.isSome := by
  simp [Part.lanePwr, hstate, hreset]

/-- Settles O22. -/
theorem controlInPark : Obligations.ControlInPark := by
  intro s d v hv hl hstate c hc
  have hreset := Part.resetHigh_of_live (Part.live_of_writeValue hv)
  refine ⟨_, exec_controlRow_levels hv hl hc, ?_⟩
  rw [Part.controlLevels_park v hstate]
  simp only [State.withPart, Part.refreshErase_frame, Part.refreshErase_lanePwr]
  refine ⟨hstate, fun h1 hwake => ?_, fun h1 => ?_⟩
  · rw [Part.lanePwr_park (by exact hstate) (by exact hreset)]
    simp only [h1, hwake]
    exact ⟨rfl, rfl⟩
  · rw [Part.lanePwr_park (by exact hstate) (by exact hreset)]
    simp only [h1]
    exact ⟨rfl, rfl⟩

/-! ## Quiet (R181) -/

theorem exec_quietReached {s : State} (h : s.part.live = true) :
    exec .quietReached s = .next (s.withPart s.part.watchQuiet.refreshErase) := run_act_live h

theorem Part.not_ready_of_not {p : Part}
    (h : ¬ ((p.power.state = .hold ∨ p.power.state = .brace) ∧ p.lanesIdle = true ∧ p.head.append = none)) :
    p.watchQuiet = p := Part.watchQuiet_of_not_ready (by rwa [p.contained_iff, p.quiet_iff])

/-- Quiet newly noticed in BRACE raises BRACED. -/
theorem Part.quietNoted_braced {p : Part} (hstate : p.power.state = .brace) (hseen : p.power.quietSeen = false) :
    p.quietNoted.bus.sticky &&& 0x40 = 0x40 := by
  rw [Part.quietNoted_eq, hseen]
  show (p.bus.sticky ||| (if p.power.state = .brace then 0x40 else 0)) &&& 0x40 = 0x40
  rw [if_pos hstate]
  exact sticky_kept (a := 0x40) (by rw [BitVec.or_assoc, BitVec.or_self]) rfl

/-- Settles O25. -/
theorem quietParks : Obligations.QuietParks := by
  refine ⟨fun s hlive hidle happend hstate => ⟨_, exec_quietReached hlive, ?_⟩, fun s hlive => exec_quietReached hlive,
    fun p => ?_, fun p => ⟨fun st => rfl, fun h cause => Part.requestSetBack_idle h cause⟩⟩
  · obtain ⟨hpower, hpending, _, _, hmem, horders, hrecord, hscan, hhead, hdir, hsegs, hreclaim, _⟩ :=
      s.part.watchQuiet_outcome
    rw [Part.parks_contained hstate happend, hidle, Bool.true_and] at hpower hpending
    refine ⟨fun hpark => ?_, fun hpark => ?_, fun hbrace hseen => ?_, hmem, horders, hdir, hsegs, hhead, hrecord, hscan, hreclaim⟩
    · rw [hpark] at hpower hpending
      refine ⟨hpower, hpending, fun hwake => ?_⟩
      rw [State.withPart, Part.lanePwr_park hpower (by simpa using Part.resetHigh_of_live hlive)]
      simp [hwake]
    · rw [hpark] at hpower
      exact hpower
    · have hnoted := Part.quietNoted_braced hbrace hseen
      simp only [State.withPart, Part.refreshErase_frame]
      rw [Part.watchQuiet_of_ready (s.part.contained_iff.2 hstate) (s.part.quiet_iff.2 ⟨hidle, happend⟩)]
      split <;> exact hnoted
  · refine ⟨Part.not_ready_of_not, fun ⟨hstate, hidle, happend⟩ hpark => ?_, fun ⟨hstate, hidle, happend⟩ hpark => ?_⟩
    · rw [Part.watchQuiet_of_ready (p.contained_iff.2 hstate) (p.quiet_iff.2 ⟨hidle, happend⟩), hpark, p.quietNoted_eq]
      rfl
    · rw [Part.watchQuiet_of_ready (p.contained_iff.2 hstate) (p.quiet_iff.2 ⟨hidle, happend⟩), hpark, p.quietNoted_eq]
      cases p.power.quietSeen <;> rfl

/-! ## Wakes (R183) -/

/-- The part once a wake has ended: HOLD or BRACE, nothing asked of a park. -/
theorem Part.endWake_eq (p : Part) : p.endWake = { p with
    power.state := if p.seen.pwarn then .brace else .hold, power.wake := none, power.parkPending := false,
    power.quietSeen := false } := rfl

theorem Part.endWake_contained (p : Part) : p.endWake.power.state = .hold ∨ p.endWake.power.state = .brace := by
  rw [Part.endWake_eq]
  cases p.seen.pwarn <;> simp

/-- What follows once PARK is left, in a containment. -/
theorem Part.afterPark_eq {p : Part} (h : p.power.state = .hold ∨ p.power.state = .brace) : p.afterPark =
    Part.watchQuiet (Part.placeMountAll { p with
      mount.settle := p.seen.storeGood && (p.mount.state == .waiting && !p.zeroing) }) := by
  have hmay : p.mountMaySettle = (p.mount.state == .waiting && !p.zeroing) := by
    unfold Part.mountMaySettle
    rcases h with h | h <;> rw [h] <;> exact (Bool.and_true _).trans (Bool.and_true _)
  rw [Part.afterPark, Part.startSettle, hmay]

theorem exec_wakeSettled {s : State} (h : s.part.live = true) :
    exec .wakeSettled s = .next (s.withPart s.part.wakeSettles.refreshErase) := run_act_live h

theorem exec_wakeLimit {s : State} (h : s.part.live = true) :
    exec .wakeLimit s = .next (s.withPart s.part.wakeExpires.refreshErase) := run_act_live h

theorem Part.wakeSettles_settling {p : Part} (hstate : p.power.state = .park) (hwake : p.power.wake = some ⟨true⟩) :
    p.wakeSettles = p.endWake.afterPark := by
  simp [Part.wakeSettles, hstate, hwake]

theorem Part.wakeExpires_waking {p : Part} (hstate : p.power.state = .park) (hwake : p.power.wake.isSome = true) :
    p.wakeExpires = p.endWake.loseSupply.afterPark := by
  simp [Part.wakeExpires, hstate, hwake]

theorem Part.wakeSettles_idle {p : Part} (h : p.power.state ≠ .park ∨ p.power.wake ≠ some ⟨true⟩) : p.wakeSettles = p := by
  unfold Part.wakeSettles
  rw [if_neg]
  rcases h with h | h
  · simp [h]
  · cases hwake : p.power.wake with
    | none => simp
    | some w =>
      obtain ⟨settle⟩ := w
      cases settle with
      | false => simp
      | true => exact absurd hwake h

theorem Part.wakeExpires_idle {p : Part} (h : p.power.state ≠ .park ∨ p.power.wake = none) : p.wakeExpires = p := by
  unfold Part.wakeExpires
  rw [if_neg]
  rcases h with h | h <;> simp [h]

/-! ### Lanes lost with the store supply (R69, R70) -/

theorem Part.lane_dropLanes (p : Part) (lost : List Lane) (l : Lane) :
    (p.dropLanes lost).lane l = if l ∈ lost then (p.lane l).offline else p.lane l := by
  induction lost generalizing p with
  | nil => rfl
  | cons k rest ih =>
    show ((p.setLane k (p.lane k).offline).dropLanes rest).lane l = _
    rw [ih]
    by_cases hk : l = k
    · subst hk
      rw [Part.lane_setLane_same, if_pos (List.mem_cons_self ..)]
      split <;> rfl
    · rw [Part.lane_setLane_other _ _ hk]
      simp [hk]

/-- Lanes going OFFLINE change their own records alone. -/
theorem Part.dropLanes_rest (p : Part) (lost : List Lane) : { p.dropLanes lost with lanes := p.lanes } = p := by
  induction lost generalizing p with
  | nil => rfl
  | cons k rest ih => exact congrArg (fun q : Part => { q with lanes := p.lanes }) (ih (p.setLane k (p.lane k).offline))

theorem Part.dropLanes_outside (p : Part) (lost : List Lane) :
    (p.dropLanes lost).outside = (p.power, p.seen, p.bus, (p.dropLanes lost).lanes, p.mount.lanes) := by
  have h := congrArg Part.outside (p.dropLanes_rest lost)
  simp only [Part.outside, Prod.mk.injEq] at h
  obtain ⟨hp, hs, hb, _, hm⟩ := h
  rw [Part.outside, hp, hs, hb, hm]

theorem Part.mem_presentLanes (p : Part) (l : Lane) : l ∈ p.presentLanes ↔ p.present l = true := by
  rw [Part.presentLanes, List.mem_filter]
  exact and_iff_right (by fin_cases l <;> decide)

theorem Part.loseLanes_nil (p : Part) (why : Reason) : p.loseLanes [] why = p := rfl

/-- A loss of lanes beyond their records. -/
theorem Part.inside_loseLanes' (p : Part) (lost : List Lane) (why : Reason) : (p.dropLanes lost).Inside (p.loseLanes lost why) := by
  by_cases h : lost = []
  · subst h
    exact .refl p
  · exact (Part.Inside.of_reclaims (Part.reclaims_raise _ _)).trans (p.inside_loseLanes why h)

/-- A loss of at least one lane raises LANE_OFFLINE. -/
theorem Part.loseLanes_notice (p : Part) {lost : List Lane} (why : Reason) (h : lost ≠ []) :
    (p.loseLanes lost why).bus.sticky &&& 0x04 = 0x04 := by
  refine sticky_kept (p.inside_loseLanes why h).raised ?_
  exact sticky_kept (a := 0x04) (b := (p.dropLanes lost).bus.sticky ||| 0x04) (by rw [BitVec.or_assoc, BitVec.or_self]) rfl

theorem LaneRec.offline_dead (r : LaneRec) : r.offline.Dead := ⟨.inr rfl, rfl, rfl, rfl⟩

/-- A lost lane is OFFLINE with nothing on it, whatever the units did at the loss. -/
theorem Part.loseLanes_lane_lost (p : Part) {lost : List Lane} (why : Reason) {l : Lane} (h : l ∈ lost) :
    (p.loseLanes lost why).lane l = (p.lane l).offline := by
  have hdropped : (p.dropLanes lost).lane l = (p.lane l).offline := by rw [Part.lane_dropLanes, if_pos h]
  rw [((p.inside_loseLanes' lost why).lanes l).dead (hdropped ▸ LaneRec.offline_dead _), hdropped]

/-- Of a lane that is not lost requests alone change. -/
theorem Part.loseLanes_lane_kept (p : Part) {lost : List Lane} (why : Reason) {l : Lane} (h : l ∉ lost) :
    (p.lane l).Kept ((p.loseLanes lost why).lane l) := by
  have hlane := (p.inside_loseLanes' lost why).lanes l
  rwa [Part.lane_dropLanes, if_neg h] at hlane

theorem Part.loseLanes_power (p : Part) (lost : List Lane) (why : Reason) :
    (p.loseLanes lost why).power = p.power ∧ (p.loseLanes lost why).seen = p.seen := by
  have hinside := p.inside_loseLanes' lost why
  have houtside := p.dropLanes_outside lost
  simp only [Part.outside, Prod.mk.injEq] at houtside
  exact ⟨hinside.power.trans houtside.1, hinside.seen.trans houtside.2.1⟩

/-! ### The mount engine's requests -/

@[simp] theorem Part.placeMount_frame (p : Part) (l : Lane) :
    (p.placeMount l).pins = p.pins ∧ (p.placeMount l).seen = p.seen ∧ (p.placeMount l).bus = p.bus
    ∧ (p.placeMount l).zeroing = p.zeroing ∧ (p.placeMount l).mem = p.mem ∧ (p.placeMount l).orders = p.orders
    ∧ (p.placeMount l).format = p.format ∧ (p.placeMount l).record = p.record ∧ (p.placeMount l).scan = p.scan
    ∧ (p.placeMount l).head = p.head ∧ (p.placeMount l).dir = p.dir ∧ (p.placeMount l).segs = p.segs
    ∧ (p.placeMount l).lastHeadLane = p.lastHeadLane ∧ (p.placeMount l).reclaim = p.reclaim
    ∧ (p.placeMount l).mount = p.mount ∧ (p.placeMount l).power = p.power ∧ (p.placeMount l).freeIndex = p.freeIndex := by
  unfold Part.placeMount
  split
  · exact ⟨rfl, rfl, rfl, rfl, rfl, rfl, rfl, rfl, rfl, rfl, rfl, rfl, rfl, rfl, rfl, rfl, rfl⟩
  · split
    · exact ⟨rfl, rfl, rfl, rfl, rfl, rfl, rfl, rfl, rfl, rfl, rfl, rfl, rfl, rfl, rfl, rfl, rfl⟩
    · simp

@[simp] theorem Part.placeMountAll_frame (p : Part) :
    p.placeMountAll.pins = p.pins ∧ p.placeMountAll.seen = p.seen ∧ p.placeMountAll.bus = p.bus
    ∧ p.placeMountAll.zeroing = p.zeroing ∧ p.placeMountAll.mem = p.mem ∧ p.placeMountAll.orders = p.orders
    ∧ p.placeMountAll.format = p.format ∧ p.placeMountAll.record = p.record ∧ p.placeMountAll.scan = p.scan
    ∧ p.placeMountAll.head = p.head ∧ p.placeMountAll.dir = p.dir ∧ p.placeMountAll.segs = p.segs
    ∧ p.placeMountAll.lastHeadLane = p.lastHeadLane ∧ p.placeMountAll.reclaim = p.reclaim
    ∧ p.placeMountAll.mount = p.mount ∧ p.placeMountAll.power = p.power
    ∧ p.placeMountAll.freeIndex = p.freeIndex := by
  simp [Part.placeMountAll]

/-- Once PARK is left, with nothing asked of a park, the power state, the tables and the lanes' states stand. -/
theorem Part.afterPark_frame {p : Part} (hstate : p.power.state = .hold ∨ p.power.state = .brace)
    (hpark : p.power.parkPending = false) :
    p.afterPark.power.state = p.power.state ∧ p.afterPark.power.wake = p.power.wake ∧ p.afterPark.power.parkPending = false
    ∧ p.afterPark.mem = p.mem ∧ p.afterPark.dir = p.dir ∧ p.afterPark.segs = p.segs ∧ p.afterPark.orders = p.orders := by
  have hparks : ∀ q : Part, q.power.parkPending = false → q.parks = false := fun q h => by rw [Part.parks, h, Bool.and_false]
  rw [Part.afterPark_eq hstate]
  simp [Part.watchQuiet_state, Part.watchQuiet_parkPending, hparks, hpark]

theorem Part.afterPark_lane (p : Part) (l : Lane) :
    (p.afterPark.lane l).state = (p.lane l).state ∧ (p.afterPark.lane l).count = (p.lane l).count := by
  obtain ⟨hstate, hcount, _⟩ := (p.startSettle.inside_placeMountAll.lanes l).fields
  rw [Part.afterPark, Part.watchQuiet_lane]
  split <;> exact ⟨hstate, hcount⟩

theorem Part.afterPark_raised (p : Part) : p.afterPark.bus.sticky ||| p.bus.sticky = p.afterPark.bus.sticky := by
  have h := p.startSettle.placeMountAll.watchQuiet_raised
  rwa [(Part.placeMountAll_frame _).2.2.1] at h

/-- Settles O26. -/
theorem wakeEnds : Obligations.WakeEnds := by
  refine ⟨⟨fun s hlive hstate hwake => ⟨_, exec_wakeSettled hlive, ?_⟩, fun s hlive hstate hwake => ⟨_, exec_wakeLimit hlive, ?_⟩⟩,
    fun s hlive hstate => ?_, fun s hlive hstate => ?_⟩
  · rw [Part.wakeSettles_settling hstate hwake]
    obtain ⟨hpower, hnoWake, hpending, hmem, hdir, hsegs, horders⟩ :=
      Part.afterPark_frame s.part.endWake_contained (p := s.part.endWake) rfl
    simp only [State.withPart, Part.refreshErase_frame, Part.refreshErase_lane_fields]
    exact ⟨hpower, hnoWake, hpending, s.part.endWake.afterPark_lane, hmem, hdir, hsegs, horders⟩
  · rw [Part.wakeExpires_waking hstate hwake]
    obtain ⟨hpower, _⟩ := s.part.endWake.loseLanes_power s.part.endWake.presentLanes .laneOffline
    have hlost : s.part.endWake.loseSupply.power = s.part.endWake.power := hpower
    obtain ⟨hheld, hnoWake, _⟩ := Part.afterPark_frame (p := s.part.endWake.loseSupply)
      (by rw [hlost]; exact s.part.endWake_contained) (by rw [hlost]; rfl)
    simp only [State.withPart, Part.refreshErase_frame, Part.refreshErase_lane_fields]
    refine ⟨hheld.trans (by rw [hlost]; rfl), hnoWake.trans (by rw [hlost]; rfl), fun l hl => ?_, fun l hl => ?_, fun ⟨l, hl⟩ => ?_⟩
    · obtain ⟨hs, hc⟩ := s.part.endWake.loseSupply.afterPark_lane l
      have hoffline : s.part.endWake.loseSupply.lane l = (s.part.lane l).offline :=
        Part.loseLanes_lane_lost _ _ ((Part.mem_presentLanes _ _).2 hl)
      exact ⟨hs.trans (by rw [hoffline]; rfl), hc.trans (by rw [hoffline]; rfl)⟩
    · have hkept := Part.loseLanes_lane_kept s.part.endWake .laneOffline (lost := s.part.endWake.presentLanes) (l := l)
        (fun h => Bool.false_ne_true (hl.symm.trans ((Part.mem_presentLanes _ _).1 h)))
      exact ((s.part.endWake.loseSupply.afterPark_lane l).1).trans hkept.fields.1
    · refine sticky_kept (Part.afterPark_raised _) (Part.loseLanes_notice _ _ fun hnone => ?_)
      have hmem := (s.part.endWake.mem_presentLanes l).2 hl
      rw [hnone] at hmem
      simp at hmem
  · intro ended goesOn
    refine ⟨fun hwake => ?_, fun hwake => ?_, fun hwake => ?_, fun hwake => ?_⟩
    · rw [exec_wakeSettled hlive, Part.wakeSettles_settling hstate hwake, Part.afterPark_eq s.part.endWake_contained]
      rfl
    · have hlost : s.part.endWake.loseSupply.power = s.part.endWake.power := (Part.loseLanes_power _ _ _).1
      rw [exec_wakeLimit hlive, Part.wakeExpires_waking hstate hwake,
        Part.afterPark_eq (by rw [hlost]; exact s.part.endWake_contained)]
      rfl
    · rw [exec_wakeSettled hlive, Part.wakeSettles_idle (.inr hwake)]
    · rw [exec_wakeLimit hlive, Part.wakeExpires_idle (.inr hwake)]
  · rw [exec_wakeSettled hlive, Part.wakeSettles_idle (.inl hstate), exec_wakeLimit hlive, Part.wakeExpires_idle (.inl hstate)]
    exact ⟨rfl, rfl⟩

/-! ## PWARN (R179) -/

theorem exec_pwarnAssert {s : State} (h : s.part.live = true) : exec .pwarnAssert s
    = .next (s.withPart (Part.seePwarn true { s.part with pins.pwarn := true }).refreshErase) := run_pinEvent_live h

theorem exec_pwarnDeassert {s : State} (h : s.part.live = true) : exec .pwarnDeassert s
    = .next (s.withPart (Part.seePwarn false { s.part with pins.pwarn := false }).refreshErase) := run_pinEvent_live h

/-- What a change of PWARN leaves: with no append in progress and nothing asked of a park it may change the power state, the
notice of quiet and BRACED alone. -/
structure Part.PwarnSeen (p : Part) (level : Bool) (st : PowerState) (q : Part) : Prop where
  pins : q.pins = p.pins
  seen : q.seen.pwarn = level
  state : q.power.state = st
  rest : q.mem = p.mem ∧ q.orders = p.orders ∧ q.power.clearPending = p.power.clearPending ∧ q.dir = p.dir ∧ q.segs = p.segs
    ∧ q.head = p.head ∧ q.record = p.record ∧ q.scan = p.scan ∧ q.reclaim = p.reclaim

theorem Part.pwarnSeen_contained {p q : Part} (level : Bool) (st : PowerState) (happend : p.head.append = none)
    (hpark : p.power.parkPending = false) (hq : q = { p with seen.pwarn := level }) :
    p.PwarnSeen level st (q.enterContained st) := by
  subst hq
  have hparks : ∀ q : Part, q.power.parkPending = false → q.parks = false := fun q h => by rw [Part.parks, h, Bool.and_false]
  rw [Part.enterContained_idle st (by exact happend)]
  constructor <;> simp [Part.watchQuiet_state, hparks, hpark]

/-- PWARN seen asserted: ACTIVE and HOLD become BRACE (R179). -/
theorem Part.seePwarn_asserted {p : Part} (happend : p.head.append = none) (hpark : p.power.parkPending = false) :
    p.PwarnSeen true (if p.power.state = .active ∨ p.power.state = .hold then .brace else p.power.state) (p.seePwarn true) := by
  have hstays : p.PwarnSeen true p.power.state { p with seen.pwarn := true } :=
    ⟨rfl, rfl, rfl, rfl, rfl, rfl, rfl, rfl, rfl, rfl, rfl, rfl⟩
  unfold Part.seePwarn
  cases hstate : p.power.state with
  | active => exact Part.pwarnSeen_contained true .brace happend hpark rfl
  | hold => exact Part.pwarnSeen_contained true .brace happend hpark rfl
  | brace => rw [hstate] at hstays; exact hstays
  | park => rw [hstate] at hstays; exact hstays
  | stopped => rw [hstate] at hstays; exact hstays

/-- PWARN seen deasserted: BRACE becomes HOLD (R179). -/
theorem Part.seePwarn_deasserted {p : Part} (happend : p.head.append = none) (hpark : p.power.parkPending = false) :
    p.PwarnSeen false (if p.power.state = .brace then .hold else p.power.state) (p.seePwarn false) := by
  have hstays : p.PwarnSeen false p.power.state { p with seen.pwarn := false } :=
    ⟨rfl, rfl, rfl, rfl, rfl, rfl, rfl, rfl, rfl, rfl, rfl, rfl⟩
  unfold Part.seePwarn
  cases hstate : p.power.state with
  | brace => exact Part.pwarnSeen_contained false .hold happend hpark rfl
  | active => rw [hstate] at hstays; exact hstays
  | hold => rw [hstate] at hstays; exact hstays
  | park => rw [hstate] at hstays; exact hstays
  | stopped => rw [hstate] at hstays; exact hstays

/-- Settles O27. -/
theorem pwarnBraces : Obligations.PwarnBraces := by
  intro s hlive happend hpark
  refine ⟨⟨_, exec_pwarnAssert hlive, ?_⟩, ⟨_, exec_pwarnDeassert hlive, ?_⟩⟩
  · obtain ⟨hpins, hseen, hstate, hrest⟩ := Part.seePwarn_asserted (p := { s.part with pins.pwarn := true }) happend hpark
    simp only [State.withPart, Part.refreshErase_frame]
    exact ⟨by rw [hpins], hseen, hstate, hrest⟩
  · obtain ⟨hpins, hseen, hstate, hrest⟩ := Part.seePwarn_deasserted (p := { s.part with pins.pwarn := false }) happend hpark
    simp only [State.withPart, Part.refreshErase_frame]
    exact ⟨by rw [hpins], hseen, fun h => hstate.trans (if_pos h), fun h => hstate.trans ((if_neg (by simp [h])).trans h), hrest⟩

end Sys2Proof.Machine
end

section
/-! SUPPORT. What reads back from exchange memory after an access, and what a completion writes into its slot (R84, R93, R108). -/

namespace Sys2Proof.Machine

/-! ## Reading after an access (R84) -/

/-- After an access the bytes stored read back, and every other byte as before. -/
theorem Mem.read_writeBytes {m : Mem} {a : Nat} {bytes : List Byte} (hwf : Mem.wf m = true) (hb : a + bytes.length ≤ memSize)
    (c : Nat) : Mem.read (Mem.writeBytes m a bytes) c =
      if a ≤ c ∧ c < a + bytes.length then bytes.getD (c - a) 0 else Mem.read m c := by
  split
  · next h =>
    obtain ⟨hlo, hhi⟩ := h
    have hi : c - a < bytes.length := by omega
    have hread := Mem.read_writeBytes_same bytes m a (c - a) hwf hb hi
    rw [show a + (c - a) = c from by omega] at hread
    rw [hread, List.getD_eq_getElem?_getD, List.getElem?_eq_getElem hi, Option.getD_some]
  · exact Mem.read_writeBytes_other bytes m a c hb (by omega)

theorem leBytes_four (v : Nat) : leBytes 4 v =
    [BitVec.ofNat 8 v, BitVec.ofNat 8 (v / 256), BitVec.ofNat 8 (v / 256 / 256), BitVec.ofNat 8 (v / 256 / 256 / 256)] := rfl

theorem leBytes_two_eq (v : Nat) : leBytes 2 v = [BitVec.ofNat 8 v, BitVec.ofNat 8 (v / 256)] := rfl

/-- A register's four bytes give its value back. -/
theorem leNat_leBytes_long (v : Long) : leNat (leBytes 4 v.toNat) = v.toNat := by
  rw [leNat_leBytes]
  exact Nat.mod_eq_of_lt v.isLt

theorem leNat_leBytes_word (v : Word) : leNat (leBytes 2 v.toNat) = v.toNat := by
  rw [leNat_leBytes]
  exact Nat.mod_eq_of_lt v.isLt

/-! ## A completed slot (R93, R107, R108) -/

/-- The result fields of a slot, bytes 20 to 31 (R93). -/
def Result.fieldBytes (r : Result) : List Byte :=
  leBytes 4 r.sequence.toNat ++ leBytes 2 r.length.toNat ++ leBytes 2 r.examined.toNat ++ leBytes 4 r.resume.toNat

/-- Exchange memory once a slot's order has been completed. -/
def Mem.completed (m : Mem) (n : SlotNo) (r : Result) : Mem :=
  (((m.writeBytes (slotBase n + 3) [r.cls.code, r.reason.code, r.marks]).writeBytes (slotBase n + 20) r.fieldBytes).writeBytes
    (slotBase n + 35) [r.damaged]).writeBytes (slotBase n) [phaseByte .done]

theorem Part.complete_mem (p : Part) (n : SlotNo) (r : Result) : (p.complete n r).mem = p.mem.completed n r := by
  simp only [Part.complete, Part.setSlot_frame, Part.writePhase, Part.writeResult, Part.store_mem]
  rfl

theorem Result.fieldBytes_length (r : Result) : r.fieldBytes.length = 12 := by
  simp [Result.fieldBytes, leBytes_length]

theorem slotBase_add_le (n : SlotNo) : slotBase n + 64 ≤ memSize := by
  have := n.isLt
  simp only [slotBase, memSize]
  omega

/-- A byte of exchange memory after a completion. -/
theorem Mem.read_completed {m : Mem} (hwf : Mem.wf m = true) (n : SlotNo) (r : Result) (c : Nat) :
    Mem.read (m.completed n r) c =
      if c = slotBase n then 3
      else if c = slotBase n + 35 then r.damaged
      else if slotBase n + 20 ≤ c ∧ c < slotBase n + 32 then r.fieldBytes.getD (c - (slotBase n + 20)) 0
      else if slotBase n + 3 ≤ c ∧ c < slotBase n + 6 then [r.cls.code, r.reason.code, r.marks].getD (c - (slotBase n + 3)) 0
      else Mem.read m c := by
  have hroom := slotBase_add_le n
  have hlen := r.fieldBytes_length
  have hwf1 := Mem.wf_writeBytes [r.cls.code, r.reason.code, r.marks] (slotBase n + 3) hwf
  have hwf2 := Mem.wf_writeBytes r.fieldBytes (slotBase n + 20) hwf1
  have hwf3 := Mem.wf_writeBytes [r.damaged] (slotBase n + 35) hwf2
  have hone : ∀ a c : Nat, (a ≤ c ∧ c < a + 1) ↔ c = a := fun a c => by omega
  unfold Mem.completed
  rw [Mem.read_writeBytes hwf3 (by simp only [List.length_singleton]; omega),
    Mem.read_writeBytes hwf2 (by simp only [List.length_singleton]; omega), Mem.read_writeBytes hwf1 (by omega),
    Mem.read_writeBytes hwf (by simp only [List.length_cons, List.length_nil]; omega), hlen]
  simp only [List.length_cons, List.length_nil, hone]
  split
  · next h => subst h; simp [phaseByte]
  · split
    · next h => subst h; simp
    · rfl

/-- The bytes of a slot that a completion writes. -/
def completionOffsets : List Nat := [0, 3, 4, 5, 20, 21, 22, 23, 24, 25, 26, 27, 28, 29, 30, 31, 35]

theorem Mem.read_completed_other {m : Mem} (hwf : Mem.wf m = true) (n : SlotNo) (r : Result) {c : Nat}
    (h : ∀ k ∈ completionOffsets, c ≠ slotBase n + k) : Mem.read (m.completed n r) c = Mem.read m c := by
  simp only [completionOffsets, List.forall_mem_cons, Nat.add_zero, List.not_mem_nil, false_implies, implies_true, and_true] at h
  rw [Mem.read_completed hwf, if_neg (by omega), if_neg (by omega), if_neg (by omega), if_neg (by omega)]

/-- The outcome's bytes as they read back. -/
theorem Mem.read_completed_outcome {m : Mem} (hwf : Mem.wf m = true) (n : SlotNo) (r : Result) :
    Mem.read (m.completed n r) (slotBase n) = 3 ∧ Mem.read (m.completed n r) (slotBase n + 3) = r.cls.code
      ∧ Mem.read (m.completed n r) (slotBase n + 4) = r.reason.code ∧ Mem.read (m.completed n r) (slotBase n + 5) = r.marks
      ∧ Mem.read (m.completed n r) (slotBase n + 35) = r.damaged := by
  simp only [Mem.read_completed hwf]
  simp

/-- A result field's byte as it reads back. -/
theorem Mem.read_completed_field {m : Mem} (hwf : Mem.wf m = true) (n : SlotNo) (r : Result) {k : Nat} (h : k < 12) :
    Mem.read (m.completed n r) (slotBase n + (20 + k)) = r.fieldBytes.getD k 0 := by
  rw [Mem.read_completed hwf, if_neg (by omega), if_neg (by omega), if_pos (by omega)]
  congr 1
  omega

/-- The four result fields as they read back, byte by byte. -/
theorem Mem.read_completed_fields {m : Mem} (hwf : Mem.wf m = true) (n : SlotNo) (r : Result) :
    (List.range 4).map (fun k => Mem.read (m.completed n r) (slotBase n + (20 + k))) = leBytes 4 r.sequence.toNat
    ∧ (List.range 2).map (fun k => Mem.read (m.completed n r) (slotBase n + (24 + k))) = leBytes 2 r.length.toNat
    ∧ (List.range 2).map (fun k => Mem.read (m.completed n r) (slotBase n + (26 + k))) = leBytes 2 r.examined.toNat
    ∧ (List.range 4).map (fun k => Mem.read (m.completed n r) (slotBase n + (28 + k))) = leBytes 4 r.resume.toNat := by
  have hat : ∀ a k : Nat, a + k < 12 →
      Mem.read (m.completed n r) (slotBase n + (20 + a + k)) = r.fieldBytes.getD (a + k) 0 := fun a k h => by
    rw [Nat.add_assoc]
    exact Mem.read_completed_field hwf n r h
  have h0 := hat 0
  have h4 := hat 4
  have h6 := hat 6
  have h8 := hat 8
  refine ⟨?_, ?_, ?_, ?_⟩
  · simp only [show List.range 4 = [0, 1, 2, 3] from rfl, List.map_cons, List.map_nil]
    rw [h0 0 (by omega), h0 1 (by omega), h0 2 (by omega), h0 3 (by omega)]
    rfl
  · simp only [show List.range 2 = [0, 1] from rfl, List.map_cons, List.map_nil]
    rw [h4 0 (by omega), h4 1 (by omega)]
    rfl
  · simp only [show List.range 2 = [0, 1] from rfl, List.map_cons, List.map_nil]
    rw [h6 0 (by omega), h6 1 (by omega)]
    rfl
  · simp only [show List.range 4 = [0, 1, 2, 3] from rfl, List.map_cons, List.map_nil]
    rw [h8 0 (by omega), h8 1 (by omega), h8 2 (by omega), h8 3 (by omega)]
    rfl

theorem Result.marks_eq (r : Result) : r.marks = (if r.retried then 1 else 0) + (if r.damagedSeen then 2 else 0) := by
  unfold Result.marks
  cases r.retried <;> cases r.damagedSeen <;> decide

/-- Settles O44. -/
theorem completionWrites : Obligations.CompletionWrites := by
  intro s n r hwf t
  obtain ⟨hphase, hcls, hreason, hmarks, hdamaged⟩ := Mem.read_completed_outcome hwf n r
  obtain ⟨hsequence, hlength, hexamined, hresume⟩ := Mem.read_completed_fields hwf n r
  have hmem : t.part.mem = s.part.mem.completed n r := s.part.complete_mem n r
  simp only [State.slotByte, State.byte, hmem, Nat.add_zero]
  refine ⟨hphase, hcls, hreason, hmarks.trans r.marks_eq, ?_, ?_, ?_, ?_, hdamaged, fun a ha => ?_,
    Part.complete_doneList _ _ _, Part.slot_complete_same _ _ _, fun m hm => Part.slot_complete_other _ _ hm⟩
  · exact (congrArg leNat hsequence).trans (leNat_leBytes_long _)
  · exact (congrArg leNat hlength).trans (leNat_leBytes_word _)
  · exact (congrArg leNat hexamined).trans (leNat_leBytes_word _)
  · exact (congrArg leNat hresume).trans (leNat_leBytes_long _)
  · exact Mem.read_completed_other hwf n r ha

end Sys2Proof.Machine
end

section
/-! SUPPORT. The clear: what it writes into the slots, what it ends in the units, and what it leaves (R114, R185). -/

namespace Sys2Proof.Machine

/-! ## Dropped work (R65, R73) -/

theorem LaneRec.discards_iff (r : LaneRec) (rq : Requester) : r.discards rq = true ↔
    rq ∈ [Requester.record, .scan, .reclaim] ∧ ∃ op ms, r.inFlight = some ⟨rq, op, ms, true⟩ := by
  have hmay : rq.mayDiscard = true ↔ rq ∈ [Requester.record, .scan, .reclaim] := by cases rq <;> decide
  rw [LaneRec.discards, Bool.and_eq_true, hmay]
  refine and_congr_right fun _ => ?_
  cases r.inFlight with
  | none => simp
  | some f =>
    obtain ⟨rq', op, ms, discard⟩ := f
    simp

/-- The flight as its requester's work is dropped (R73). -/
def InFlight.dropped (rq : Requester) (f : InFlight) : InFlight := if f.requester = rq then { f with discard := true } else f

theorem LaneRec.dropWork_eq (rq : Requester) (r : LaneRec) : r.dropWork rq = { r with
    waiting := r.waiting.set rq none, heldBack := if r.discards rq then none else r.heldBack,
    inFlight := r.inFlight.map (InFlight.dropped rq) } := rfl

/-- Dropping one requester's work leaves whether another's result is to be discarded. -/
theorem LaneRec.discards_dropWork_other (r : LaneRec) {rq other : Requester} (h : other ≠ rq) :
    (r.dropWork rq).discards other = r.discards other := by
  simp only [LaneRec.discards, LaneRec.dropWork_eq]
  cases r.inFlight with
  | none => rfl
  | some f =>
    simp only [Option.map_some, Option.any_some, InFlight.dropped]
    split
    · next hf =>
      have hne : (rq == other) = false := by simpa using Ne.symm h
      simp [hf, hne]
    · rfl

/-- A lane record once the record unit, the scan unit and the reclaim unit have dropped their work. -/
def LaneRec.unitsDropped (r : LaneRec) : LaneRec := ((r.dropWork .record).dropWork .scan).dropWork .reclaim

/-- The flight once the three units have dropped their work. -/
theorem LaneRec.unitsDropped_inFlight (r : LaneRec) : r.unitsDropped.inFlight = r.inFlight.map fun f =>
    if f.requester ∈ [Requester.record, .scan, .reclaim] then { f with discard := true } else f := by
  show Option.map (InFlight.dropped .reclaim) (Option.map (InFlight.dropped .scan) (Option.map (InFlight.dropped .record) r.inFlight)) = _
  rw [Option.map_map, Option.map_map]
  congr 1
  funext ⟨rq, op, ms, discard⟩
  cases rq <;> rfl

theorem LaneRec.unitsDropped_waiting (r : LaneRec) (rq : Requester) :
    r.unitsDropped.waiting.get rq = if rq ∈ [Requester.record, .scan, .reclaim] then none else r.waiting.get rq := by
  cases rq <;> rfl

theorem LaneRec.unitsDropped_heldBack (r : LaneRec) : r.unitsDropped.heldBack =
    if r.discards .record || r.discards .scan || r.discards .reclaim then none else r.heldBack := by
  have hscan : (r.dropWork .record).discards .scan = r.discards .scan := r.discards_dropWork_other (by simp)
  have hreclaim : ((r.dropWork .record).dropWork .scan).discards .reclaim = r.discards .reclaim := by
    rw [LaneRec.discards_dropWork_other _ (by simp), LaneRec.discards_dropWork_other _ (by simp)]
  show (if ((r.dropWork .record).dropWork .scan).discards .reclaim then none
    else if (r.dropWork .record).discards .scan then none else if r.discards .record then none else r.heldBack) = _
  rw [hscan, hreclaim]
  cases r.discards .record <;> cases r.discards .scan <;> cases r.discards .reclaim <;> rfl

/-- Once the units have dropped their work, all that they discard is marked so: no act of theirs changes the flight again. -/
theorem LaneRec.Kept.flight_of_dropped {r x : LaneRec} (h : r.unitsDropped.Kept x) : x.inFlight = r.unitsDropped.inFlight := by
  rcases h.flight with h | ⟨f, hf, hmay, hx⟩
  · exact h
  · rw [hx, hf]
    rw [LaneRec.unitsDropped_inFlight] at hf
    obtain ⟨f', _, rfl⟩ := Option.map_eq_some_iff.1 hf
    obtain ⟨rq, op, ms, discard⟩ := f'
    cases rq with
    | record | scan | reclaim => rfl
    | mount | head | erase => exact absurd hmay Bool.false_ne_true

/-! ## Segment entries -/

/-- A change that leaves the entry that stands for a missing segment acts on every segment's entry it names. -/
theorem Part.seg_modSeg {p : Part} (a b : SegAddr) {f : SegEntry → SegEntry} (hf : f (SegEntry.cleared .bad) = SegEntry.cleared .bad) :
    (p.modSeg a f).seg b = if b = a then f (p.seg b) else p.seg b := by
  by_cases h : b = a
  · subst h
    rw [if_pos rfl]
    by_cases hlen : b.seg < (p.segs.get b.lane).length
    · exact Part.seg_modSeg_same p b f hlen
    · simp only [Part.seg, Part.modSeg, Quad.get_set_same, List.getD_eq_getElem?_getD]
      rw [List.getElem?_eq_none (by rw [List.length_modify]; omega), List.getElem?_eq_none (by omega)]
      exact hf.symm
  · rw [if_neg h, Part.seg_modSeg_other p f h]

/-- Release the readers count of a segment, if one is held. -/
def Part.releaseHeld (held : Option SegAddr) (p : Part) : Part :=
  match held with
  | some a => p.releaseReader a
  | none => p

theorem Part.seg_releaseHeld (p : Part) (held : Option SegAddr) (a : SegAddr) : (p.releaseHeld held).seg a =
    { p.seg a with readers := (p.seg a).readers - if held = some a then 1 else 0 } := by
  cases held with
  | none => rfl
  | some b =>
    show (p.modSeg b _).seg a = _
    rw [Part.seg_modSeg b a rfl]
    by_cases h : a = b
    · subst h; simp
    · simp [h, Ne.symm h]

theorem Part.clearRecord_eq (p : Part) : p.clearRecord =
    ({ p.dropWork .record with record := none, head.orderReq := none } : Part).releaseHeld (p.record.bind fun o => o.step.holds) := by
  simp only [Part.clearRecord]
  obtain _ | ⟨n, f, _ | g⟩ := p.record <;> rfl

theorem Part.clearScan_eq (p : Part) : p.clearScan =
    ({ p.dropWork .scan with scan := none } : Part).releaseHeld ((p.scan.bind (·.inHand)).map (·.holds)) := by
  simp only [Part.clearScan]
  cases p.scan.bind (·.inHand) <;> rfl

/-- The tail, if there is one, is CLOSED again where it was RECLAIMING. -/
def Part.reopenTail (tail : Option SegAddr) (p : Part) : Part :=
  match tail with
  | some t => p.modSeg t SegEntry.reopen
  | none => p

theorem Part.seg_reopenTail (p : Part) (tail : Option SegAddr) (a : SegAddr) : (p.reopenTail tail).seg a =
    { p.seg a with state := if tail = some a ∧ (p.seg a).state = .reclaiming then .closed else (p.seg a).state } := by
  cases tail with
  | none => simp [Part.reopenTail]
  | some t =>
    show (p.modSeg t SegEntry.reopen).seg a = _
    rw [Part.seg_modSeg t a rfl]
    by_cases h : a = t
    · subst h
      simp only [if_true, true_and, SegEntry.reopen]
      split <;> rfl
    · simp [h, Ne.symm h]

theorem Part.dropWalk_eq (p : Part) : p.dropWalk =
    { (p.dropWork .reclaim).reopenTail p.reclaim.tail with
      reclaim := { p.reclaim with inHand := none, copyWait := false, tail := none }, head.copyReq := none } := by
  simp only [Part.dropWalk]
  rw [show (p.dropWork .reclaim).reclaim.tail = p.reclaim.tail from rfl]
  cases p.reclaim.tail <;> rfl

/-! ## The free count (R50) -/

theorem countP_addrsFrom_and (l : Lane) (n : Nat) (es : List SegEntry) (f : SegEntry → Bool) (g : Lane → Bool) :
    (addrsFrom l n es).countP (fun x => f x.2 && g x.1.lane) = if g l then es.countP f else 0 := by
  induction es generalizing n with
  | nil => cases g l <;> rfl
  | cons e rest ih =>
    simp only [addrsFrom, List.countP_cons, ih]
    cases g l <;> simp

/-- The free count, lane by lane. -/
theorem Part.freeCount_eq (p : Part) : p.freeCount =
    (if p.present 0 then p.segs.l0.countP (·.state == .free) else 0) + (if p.present 1 then p.segs.l1.countP (·.state == .free) else 0)
      + (if p.present 2 then p.segs.l2.countP (·.state == .free) else 0)
      + (if p.present 3 then p.segs.l3.countP (·.state == .free) else 0) := by
  simp only [Part.freeCount, Part.entries, List.countP_append,
    countP_addrsFrom_and _ _ _ (fun e => e.state == .free) (fun l => p.present l)]

theorem countP_modify_same (f : SegEntry → Bool) (g : SegEntry → SegEntry) (h : ∀ e, f (g e) = f e) (es : List SegEntry) (i : Nat) :
    (es.modify i g).countP f = es.countP f := by
  induction es generalizing i with
  | nil => simp
  | cons e rest ih =>
    cases i with
    | zero => simp [List.countP_cons, h]
    | succ i => simp [List.countP_cons, ih]

/-- A change that makes no segment FREE, and takes none from FREE, keeps the free count. -/
theorem Part.freeCount_modSeg (p : Part) (a : SegAddr) {g : SegEntry → SegEntry}
    (h : ∀ e, ((g e).state == .free) = (e.state == .free)) : (p.modSeg a g).freeCount = p.freeCount := by
  have hlane : ∀ l, ((p.modSeg a g).segs.get l).countP (·.state == .free) = (p.segs.get l).countP (·.state == .free) := fun l => by
    simp only [Part.modSeg, Quad.get_set]
    split
    · next hl => rw [hl, countP_modify_same _ g h]
    · rfl
  have h0 : (p.modSeg a g).segs.l0.countP (·.state == .free) = p.segs.l0.countP (·.state == .free) := hlane 0
  have h1 : (p.modSeg a g).segs.l1.countP (·.state == .free) = p.segs.l1.countP (·.state == .free) := hlane 1
  have h2 : (p.modSeg a g).segs.l2.countP (·.state == .free) = p.segs.l2.countP (·.state == .free) := hlane 2
  have h3 : (p.modSeg a g).segs.l3.countP (·.state == .free) = p.segs.l3.countP (·.state == .free) := hlane 3
  rw [Part.freeCount_eq, Part.freeCount_eq, h0, h1, h2, h3]
  rfl

/-- The free count looks at the segment states and at which lanes are PRESENT. -/
theorem Part.freeCount_congr {p q : Part} (hs : q.segs = p.segs) (hp : ∀ l, q.present l = p.present l) :
    q.freeCount = p.freeCount := by
  rw [Part.freeCount_eq, Part.freeCount_eq, hs, hp, hp, hp, hp]

theorem Part.freeCount_releaseHeld (p : Part) (held : Option SegAddr) : (p.releaseHeld held).freeCount = p.freeCount := by
  cases held with
  | none => rfl
  | some a => exact p.freeCount_modSeg a fun _ => rfl

theorem Part.freeCount_reopenTail (p : Part) (tail : Option SegAddr) : (p.reopenTail tail).freeCount = p.freeCount := by
  cases tail with
  | none => rfl
  | some t =>
    refine p.freeCount_modSeg t fun e => ?_
    unfold SegEntry.reopen
    split
    · next h => rw [h]; rfl
    · rfl

theorem Part.freeCount_dropWork (p : Part) (rq : Requester) : (p.dropWork rq).freeCount = p.freeCount :=
  Part.freeCount_congr rfl fun l => by simp only [Part.present, Part.lane_dropWork]; rfl

/-! ## The slots (R114) -/

/-- The held slots read ABANDONED, and nothing else changes. -/
def Part.abandon (slots : List SlotNo) (p : Part) : Part := slots.foldl (fun q n => q.writePhase n abandonedByte) p

theorem Part.abandon_eq (slots : List SlotNo) (p : Part) : p.abandon slots = { p with mem := (p.abandon slots).mem } := by
  induction slots generalizing p with
  | nil => rfl
  | cons n rest ih => exact ih (p.writePhase n abandonedByte)

theorem Part.read_abandon {p : Part} (slots : List SlotNo) (hwf : Mem.wf p.mem = true) (a : Nat) :
    Mem.read (p.abandon slots).mem a = if ∃ n ∈ slots, a = slotBase n then 4 else Mem.read p.mem a := by
  induction slots generalizing p with
  | nil => simp [Part.abandon]
  | cons n rest ih =>
    show Mem.read ((p.writePhase n abandonedByte).abandon rest).mem a = _
    have hwrite : Mem.read (p.writePhase n abandonedByte).mem a = if a = slotBase n then 4 else Mem.read p.mem a := by
      have hroom := slotBase_add_le n
      have hread := Mem.read_writeBytes (bytes := [abandonedByte]) hwf (a := slotBase n)
        (by simp only [List.length_singleton]; omega) a
      simp only [List.length_singleton, show slotBase n ≤ a ∧ a < slotBase n + 1 ↔ a = slotBase n from by omega] at hread
      refine hread.trans ?_
      split
      · next h => subst h; simp [abandonedByte]
      · rfl
    rw [ih (Part.wf_writePhase n _ hwf), hwrite]
    by_cases hn : a = slotBase n
    · simp [hn]
    · simp [hn]

theorem slotBase_injective {n m : SlotNo} (h : slotBase n = slotBase m) : n = m := by
  simp only [slotBase] at h
  exact Fin.ext (by omega)

theorem Part.mem_heldSlots (p : Part) (n : SlotNo) : n ∈ p.heldSlots ↔ (p.slot n).held = true := by
  simp [Part.heldSlots]

theorem Part.clearOrders_eq (p : Part) : p.clearOrders = { p with
    mem := (p.abandon p.heldSlots).mem, format := none,
    orders := { p.orders with slots := Vector.replicate 32 ⟨false, .idle⟩, postQueue := [], doneList := [], lastPost := .none } } := by
  exact congrArg (fun q : Part => { q with
    format := none,
    orders := { q.orders with slots := Vector.replicate 32 ⟨false, .idle⟩, postQueue := [], doneList := [], lastPost := .none } })
    (p.abandon_eq p.heldSlots)

/-! ## The clear's own effects (R185) -/

theorem Part.releaseHeld_eq (p : Part) (held : Option SegAddr) :
    p.releaseHeld held = { p with segs := (p.releaseHeld held).segs } := by
  cases held <;> rfl

theorem Part.reopenTail_eq (p : Part) (tail : Option SegAddr) : p.reopenTail tail = { p with segs := (p.reopenTail tail).segs } := by
  cases tail <;> rfl

/-- The clear in the record unit (R115). -/
@[simp] theorem Part.clearRecord_frame (p : Part) :
    p.clearRecord.pins = p.pins ∧ p.clearRecord.seen = p.seen ∧ p.clearRecord.zeroing = p.zeroing ∧ p.clearRecord.mem = p.mem
    ∧ p.clearRecord.format = p.format ∧ p.clearRecord.record = none ∧ p.clearRecord.scan = p.scan
    ∧ p.clearRecord.head = { p.head with orderReq := none } ∧ p.clearRecord.dir = p.dir
    ∧ p.clearRecord.lastHeadLane = p.lastHeadLane ∧ p.clearRecord.lanes = p.lanes.map (LaneRec.dropWork .record)
    ∧ p.clearRecord.reclaim = p.reclaim ∧ p.clearRecord.mount = p.mount ∧ p.clearRecord.power = p.power
    ∧ p.clearRecord.freeIndex = p.freeIndex := by
  rw [Part.clearRecord_eq, Part.releaseHeld_eq]
  exact ⟨rfl, rfl, rfl, rfl, rfl, rfl, rfl, rfl, rfl, rfl, rfl, rfl, rfl, rfl, rfl⟩

/-- The clear in the scan unit (R136). -/
@[simp] theorem Part.clearScan_frame (p : Part) :
    p.clearScan.pins = p.pins ∧ p.clearScan.seen = p.seen ∧ p.clearScan.zeroing = p.zeroing ∧ p.clearScan.mem = p.mem
    ∧ p.clearScan.format = p.format ∧ p.clearScan.record = p.record ∧ p.clearScan.scan = none
    ∧ p.clearScan.head = p.head ∧ p.clearScan.dir = p.dir ∧ p.clearScan.lastHeadLane = p.lastHeadLane
    ∧ p.clearScan.lanes = p.lanes.map (LaneRec.dropWork .scan) ∧ p.clearScan.reclaim = p.reclaim
    ∧ p.clearScan.mount = p.mount ∧ p.clearScan.power = p.power ∧ p.clearScan.freeIndex = p.freeIndex := by
  rw [Part.clearScan_eq, Part.releaseHeld_eq]
  exact ⟨rfl, rfl, rfl, rfl, rfl, rfl, rfl, rfl, rfl, rfl, rfl, rfl, rfl, rfl, rfl⟩

/-- The reclaim unit's work is dropped (R149, R156). -/
@[simp] theorem Part.dropWalk_frame (p : Part) :
    p.dropWalk.pins = p.pins ∧ p.dropWalk.seen = p.seen ∧ p.dropWalk.zeroing = p.zeroing ∧ p.dropWalk.mem = p.mem
    ∧ p.dropWalk.format = p.format ∧ p.dropWalk.record = p.record ∧ p.dropWalk.scan = p.scan
    ∧ p.dropWalk.head = { p.head with copyReq := none } ∧ p.dropWalk.dir = p.dir
    ∧ p.dropWalk.lastHeadLane = p.lastHeadLane ∧ p.dropWalk.lanes = p.lanes.map (LaneRec.dropWork .reclaim)
    ∧ p.dropWalk.segs = (p.reopenTail p.reclaim.tail).segs
    ∧ p.dropWalk.reclaim = { p.reclaim with inHand := none, copyWait := false, tail := none }
    ∧ p.dropWalk.mount = p.mount ∧ p.dropWalk.power = p.power ∧ p.dropWalk.freeIndex = p.freeIndex := by
  have hsegs : ((p.dropWork .reclaim).reopenTail p.reclaim.tail).segs = (p.reopenTail p.reclaim.tail).segs := by
    cases p.reclaim.tail <;> rfl
  rw [Part.dropWalk_eq, Part.reopenTail_eq]
  exact ⟨rfl, rfl, rfl, rfl, rfl, rfl, rfl, rfl, rfl, rfl, rfl, hsegs, rfl, rfl, rfl, rfl⟩

theorem Part.clearReclaim_eq (p : Part) : p.clearReclaim = { p.dropWalk with
    reclaim := { Reclaim.reset with latchedTrigger := p.dropWalk.mounted && p.dropWalk.lowWater } } := rfl

@[simp] theorem Part.abandon_frame (slots : List SlotNo) (p : Part) :
    (p.abandon slots).segs = p.segs ∧ (p.abandon slots).lanes = p.lanes := by
  rw [Part.abandon_eq]
  exact ⟨rfl, rfl⟩

/-- What the clear's own effects leave, before the power state after it is entered. -/
theorem Part.cleared_frame (p : Part) :
    p.cleared.pins = p.pins ∧ p.cleared.seen = p.seen ∧ p.cleared.zeroing = p.zeroing
    ∧ p.cleared.mem = (p.abandon p.heldSlots).mem ∧ p.cleared.format = none ∧ p.cleared.record = none ∧ p.cleared.scan = none
    ∧ p.cleared.head = { p.head with orderReq := none, copyReq := none } ∧ p.cleared.dir = p.dir
    ∧ p.cleared.lastHeadLane = p.lastHeadLane ∧ p.cleared.mount = p.mount
    ∧ p.cleared.power = { p.power with clearPending := false } ∧ p.cleared.freeIndex = p.freeIndex
    ∧ p.cleared.bus = { p.bus with sticky := 0 }
    ∧ p.cleared.orders
      = { p.orders with slots := Vector.replicate 32 ⟨false, .idle⟩, postQueue := [], doneList := [], lastPost := .none } := by
  simp [Part.cleared, Part.clearReclaim_eq, Part.clearOrders_eq]

theorem Part.cleared_lane (p : Part) (l : Lane) : p.cleared.lane l = (p.lane l).unitsDropped := by
  have hlanes : p.cleared.lanes = ((p.lanes.map (LaneRec.dropWork .record)).map (LaneRec.dropWork .scan)).map (LaneRec.dropWork .reclaim) := by
    simp [Part.cleared, Part.clearReclaim_eq, Part.clearOrders_eq]
  rw [Part.lane, hlanes, Quad.get_map, Quad.get_map, Quad.get_map]
  rfl

theorem Part.seg_congr {p q : Part} (h : q.segs = p.segs) (a : SegAddr) : q.seg a = p.seg a := by
  rw [Part.seg, h]
  rfl

theorem Part.clearRecord_seg (p : Part) (a : SegAddr) : p.clearRecord.seg a = { p.seg a with
    readers := (p.seg a).readers - if (p.record.bind fun o => o.step.holds) = some a then 1 else 0 } := by
  rw [Part.clearRecord_eq]
  exact Part.seg_releaseHeld _ _ a

theorem Part.clearScan_seg (p : Part) (a : SegAddr) : p.clearScan.seg a = { p.seg a with
    readers := (p.seg a).readers - if ((p.scan.bind (·.inHand)).map (·.holds)) = some a then 1 else 0 } := by
  rw [Part.clearScan_eq]
  exact Part.seg_releaseHeld _ _ a

theorem Part.dropWalk_seg (p : Part) (a : SegAddr) : p.dropWalk.seg a = { p.seg a with
    state := if p.reclaim.tail = some a ∧ (p.seg a).state = .reclaiming then .closed else (p.seg a).state } := by
  rw [Part.seg_congr p.dropWalk_frame.2.2.2.2.2.2.2.2.2.2.2.1, Part.seg_reopenTail]

/-- The readers counts of the GET and of the entry in hand are released, and the tail is CLOSED again. -/
theorem Part.cleared_seg (p : Part) (a : SegAddr) : p.cleared.seg a = { p.seg a with
    state := if p.reclaim.tail = some a ∧ (p.seg a).state = .reclaiming then .closed else (p.seg a).state,
    readers := (p.seg a).readers - p.heldReaders a } := by
  have hdropped : p.cleared.seg a = p.clearOrders.clearRecord.clearScan.dropWalk.seg a := rfl
  have hscan : p.clearOrders.clearRecord.scan = p.scan := by simp [Part.clearOrders_eq]
  have hrecord : p.clearOrders.record = p.record := by simp [Part.clearOrders_eq]
  have htail : p.clearOrders.clearRecord.clearScan.reclaim = p.reclaim := by simp [Part.clearOrders_eq]
  have hseg : p.clearOrders.seg a = p.seg a := Part.seg_congr (by simp [Part.clearOrders_eq]) a
  rw [hdropped, Part.dropWalk_seg, Part.clearScan_seg, Part.clearRecord_seg, hscan, hrecord, htail, hseg]
  simp only [Nat.sub_sub, Part.heldReaders]

theorem Part.freeCount_clearRecord (p : Part) : p.clearRecord.freeCount = p.freeCount := by
  rw [Part.clearRecord_eq, Part.freeCount_releaseHeld]
  exact p.freeCount_dropWork .record

theorem Part.freeCount_clearScan (p : Part) : p.clearScan.freeCount = p.freeCount := by
  rw [Part.clearScan_eq, Part.freeCount_releaseHeld]
  exact p.freeCount_dropWork .scan

theorem Part.freeCount_dropWalk (p : Part) : p.dropWalk.freeCount = p.freeCount := by
  rw [Part.dropWalk_eq]
  exact (Part.freeCount_reopenTail _ _).trans (p.freeCount_dropWork .reclaim)

/-- A trigger is latched when the free count stands at or below the low-water mark (R151). -/
theorem Part.cleared_reclaim (p : Part) : p.cleared.reclaim = { Reclaim.reset with
    latchedTrigger := p.mounted && decide (p.freeCount ≤ p.orders.lowMark) } := by
  have hdropped : p.cleared.reclaim = { Reclaim.reset with
      latchedTrigger := p.clearOrders.clearRecord.clearScan.dropWalk.mounted
        && p.clearOrders.clearRecord.clearScan.dropWalk.lowWater } := rfl
  have hfree : p.clearOrders.clearRecord.clearScan.dropWalk.freeCount = p.freeCount := by
    rw [Part.freeCount_dropWalk, Part.freeCount_clearScan, Part.freeCount_clearRecord]
    exact Part.freeCount_congr (by simp [Part.clearOrders_eq]) fun l => by simp [Part.present, Part.lane, Part.clearOrders_eq]
  have hmark : p.clearOrders.clearRecord.clearScan.dropWalk.orders.lowMark = p.orders.lowMark := by
    simp [Part.clearOrders_eq]
  have hmounted : p.clearOrders.clearRecord.clearScan.dropWalk.mounted = p.mounted := by
    simp [Part.mounted, Part.clearOrders_eq]
  rw [hdropped, hmounted, Part.lowWater, hfree, hmark]

end Sys2Proof.Machine
end

section
/-! SUPPORT. The clear taking effect: the power state after it, and what the whole act leaves (R185). -/

namespace Sys2Proof.Machine

/-! ## The state after a clear -/

/-- The part with all that the end of a clear may change set to one value. -/
def Part.besideSettling (p : Part) : Part :=
  { p with
    bus.sticky := 0, segs := Quad.all [], lanes := Quad.all LaneRec.reset, reclaim := Reclaim.reset, head.orderReq := none,
    head.copyReq := none, mount.settle := false, power := Power.reset }

/-- The lane's state, count, operation in flight, last granted and link. -/
def LaneRec.standing (r : LaneRec) : LaneState × Nat × Option InFlight × Requester × Bool :=
  (r.state, r.count, r.inFlight, r.lastGranted, r.linkDriven)

/-- From the part as the clear's own effects leave it, `c`, to `q`: the power state after the clear has been entered. -/
structure Part.SettledFrom (c q : Part) : Prop where
  beside : q.besideSettling = c.besideSettling
  lanes : ∀ l, (q.lane l).standing = (c.lane l).standing
  unattached : q.reclaim.attached = none
  clearPending : q.power.clearPending = c.power.clearPending

namespace Part.SettledFrom

variable {c q : Part}

theorem pins_eq (h : c.SettledFrom q) : q.pins = c.pins := (congrArg Part.pins h.beside :)
theorem seen_eq (h : c.SettledFrom q) : q.seen = c.seen := (congrArg Part.seen h.beside :)
theorem zeroing_eq (h : c.SettledFrom q) : q.zeroing = c.zeroing := (congrArg Part.zeroing h.beside :)
theorem mem_eq (h : c.SettledFrom q) : q.mem = c.mem := (congrArg Part.mem h.beside :)
theorem orders_eq (h : c.SettledFrom q) : q.orders = c.orders := (congrArg Part.orders h.beside :)
theorem format_eq (h : c.SettledFrom q) : q.format = c.format := (congrArg Part.format h.beside :)
theorem record_eq (h : c.SettledFrom q) : q.record = c.record := (congrArg Part.record h.beside :)
theorem scan_eq (h : c.SettledFrom q) : q.scan = c.scan := (congrArg Part.scan h.beside :)
theorem dir_eq (h : c.SettledFrom q) : q.dir = c.dir := (congrArg Part.dir h.beside :)
theorem lastHeadLane_eq (h : c.SettledFrom q) : q.lastHeadLane = c.lastHeadLane := (congrArg Part.lastHeadLane h.beside :)
theorem bus_eq (h : c.SettledFrom q) : q.bus.withoutSticky = c.bus.withoutSticky := (congrArg Part.bus h.beside :)
theorem head_eq (h : c.SettledFrom q) :
    { q.head with orderReq := none, copyReq := none } = ({ c.head with orderReq := none, copyReq := none } : Head) :=
  (congrArg Part.head h.beside :)
theorem mount_eq (h : c.SettledFrom q) : { q.mount with settle := false } = ({ c.mount with settle := false } : Mount) :=
  (congrArg Part.mount h.beside :)

end Part.SettledFrom

theorem Part.settledFrom_refl {c : Part} (h : c.reclaim.attached = none) : c.SettledFrom c := ⟨rfl, fun _ => rfl, h, rfl⟩

theorem Part.settledFrom_watchQuiet {c : Part} (st : PowerState) (h : c.reclaim.attached = none) :
    c.SettledFrom (Part.watchQuiet { c with power.state := st, power.quietSeen := false }) := by
  generalize hr : ({ c with power.state := st, power.quietSeen := false } : Part) = r
  have hbeside : r.besideSettling = c.besideSettling := by subst hr; rfl
  have hlanes : r.lanes = c.lanes := by subst hr; rfl
  have hreclaim : r.reclaim = c.reclaim := by subst hr; rfl
  have hclear : r.power.clearPending = c.power.clearPending := by subst hr; rfl
  refine ⟨?_, fun l => ?_, by simp [hreclaim, h], by simp [hclear]⟩
  · rw [← hbeside]
    rcases r.watchQuiet_cases with ⟨_, h⟩ | ⟨_, h⟩ | ⟨_, h⟩ <;> rw [h]
    · rw [Part.quietNoted_eq]
      split <;> rfl
    · rw [Part.enterPark_eq, Part.quietNoted_eq]
      split <;> rfl
  · have hlane : r.lane l = c.lane l := congrArg (Quad.get · l) hlanes
    rw [Part.watchQuiet_lane, hlane]
    split <;> rfl

theorem Part.Reclaims.besideSettling_eq {p q : Part} (h : p.Reclaims q) (ha : p.reclaim.attached = none) :
    q.besideSettling = p.besideSettling := by
  obtain ⟨-, hmem, horders⟩ := h.unattached ha
  have hbeside : { q.besideReclaim with mem := q.mem, orders := q.orders, mount.settle := false, power := Power.reset } =
      ({ p.besideReclaim with mem := p.mem, orders := p.orders, mount.settle := false, power := Power.reset } : Part) := by
    rw [h.beside, hmem, horders]
  exact hbeside

theorem Part.settledFrom_reclaimReturns (p : Part) :
    p.cleared.SettledFrom (Part.reclaimReturns { p.cleared with power.state := .active }) := by
  have hreclaims := Part.reclaims_reclaimReturns { p.cleared with power.state := .active }
  have hattached : p.cleared.reclaim.attached = none := by rw [Part.cleared_reclaim]; rfl
  refine ⟨hreclaims.besideSettling_eq hattached, fun l => ?_, (hreclaims.unattached hattached).1,
    (congrArg Power.clearPending hreclaims.power_eq :)⟩
  have hkept := hreclaims.lanes l
  obtain ⟨hstate, hcount, hgranted, hlink⟩ := hkept.fields
  have hlane : ({ p.cleared with power.state := .active } : Part).lane l = (p.lane l).unitsDropped := p.cleared_lane l
  rw [hlane] at hkept hstate hcount hgranted hlink
  rw [p.cleared_lane l, LaneRec.standing, LaneRec.standing, hkept.flight_of_dropped, hstate, hcount, hgranted, hlink]

/-- The clear's end in each state that allows it. -/
theorem Part.clearNow_park {p : Part} (h : p.power.state = .park) : p.clearNow = p.cleared := by
  have hstate : p.cleared.power.state = .park := by simp [p.cleared_frame, h]
  rw [Part.clearNow_eq, Part.afterClear, hstate]

theorem Part.cleared_levels (p : Part) : (p.cleared.bus.holdLevel || p.cleared.bus.parkLevel) = (p.bus.holdLevel || p.bus.parkLevel) := by
  simp [p.cleared_frame]

theorem Part.cleared_enterActive (p : Part) :
    p.cleared.enterActive = Part.reclaimReturns { p.cleared with power.state := .active } := by
  have hreclaims := Part.reclaims_reclaimReturns { p.cleared with power.state := .active }
  rw [Part.enterActive, Part.scanBoundary_none]
  exact hreclaims.scan_eq.trans p.cleared_frame.2.2.2.2.2.2.1

theorem Part.clearNow_hold {p : Part} (h : p.power.state = .hold) : p.clearNow =
    if p.seen.pwarn then p.cleared.enterContained .brace
    else if p.bus.holdLevel || p.bus.parkLevel then p.cleared
    else Part.reclaimReturns { p.cleared with power.state := .active } := by
  have hstate : p.cleared.power.state = .hold := by simp [p.cleared_frame, h]
  have hseen : p.cleared.seen = p.seen := p.cleared_frame.2.1
  rw [Part.clearNow_eq, ← p.cleared_enterActive, ← p.cleared_levels, ← hseen]
  unfold Part.afterClear
  rw [hstate]

theorem Part.clearNow_brace {p : Part} (h : p.power.state = .brace) : p.clearNow =
    if p.seen.pwarn then p.cleared
    else if p.bus.holdLevel || p.bus.parkLevel then p.cleared.enterContained .hold
    else Part.reclaimReturns { p.cleared with power.state := .active } := by
  have hstate : p.cleared.power.state = .brace := by simp [p.cleared_frame, h]
  have hseen : p.cleared.seen = p.seen := p.cleared_frame.2.1
  rw [Part.clearNow_eq, ← p.cleared_enterActive, ← p.cleared_levels, ← hseen]
  unfold Part.afterClear
  rw [hstate]

theorem Part.cleared_enterContained {p : Part} (st : PowerState) (h : p.head.append = none) :
    p.cleared.enterContained st = Part.watchQuiet { p.cleared with power.state := st, power.quietSeen := false } :=
  Part.enterContained_idle st (by simp [p.cleared_frame, h])

/-- Whatever state the clear ends in. -/
theorem Part.settledFrom_clearNow {p : Part} (happend : p.head.append = none) (hactive : p.power.state ≠ .active)
    (hstopped : p.power.state ≠ .stopped) : p.cleared.SettledFrom p.clearNow := by
  have hattached : p.cleared.reclaim.attached = none := by rw [Part.cleared_reclaim]; rfl
  have hcontained := fun st => Part.settledFrom_watchQuiet (c := p.cleared) st hattached
  cases hstate : p.power.state with
  | active => exact absurd hstate hactive
  | stopped => exact absurd hstate hstopped
  | park => rw [Part.clearNow_park hstate]; exact Part.settledFrom_refl hattached
  | hold =>
    rw [Part.clearNow_hold hstate, Part.cleared_enterContained _ happend]
    split
    · exact hcontained .brace
    · split
      · exact Part.settledFrom_refl hattached
      · exact p.settledFrom_reclaimReturns
  | brace =>
    rw [Part.clearNow_brace hstate, Part.cleared_enterContained _ happend]
    split
    · exact Part.settledFrom_refl hattached
    · split
      · exact hcontained .hold
      · exact p.settledFrom_reclaimReturns

/-- A clear in each state, the inputs and levels deciding: the part as its own effects leave it, a containment, or ACTIVE. -/
theorem Part.clearNow_forms {p : Part} (hactive : p.power.state ≠ .active) (hstopped : p.power.state ≠ .stopped) :
    (p.power.state = .park → p.clearNow = p.cleared)
    ∧ (p.power.state ≠ .park → p.seen.pwarn = true →
        p.clearNow = if p.power.state = .brace then p.cleared else p.cleared.enterContained .brace)
    ∧ (p.power.state ≠ .park → p.seen.pwarn = false → (p.bus.holdLevel || p.bus.parkLevel) = true →
        p.clearNow = if p.power.state = .hold then p.cleared else p.cleared.enterContained .hold)
    ∧ (p.power.state ≠ .park → p.seen.pwarn = false → (p.bus.holdLevel || p.bus.parkLevel) = false →
        p.clearNow = Part.reclaimReturns { p.cleared with power.state := .active }) := by
  refine ⟨Part.clearNow_park, fun hpark hpwarn => ?_, fun hpark hpwarn hlevel => ?_, fun hpark hpwarn hlevel => ?_⟩ <;>
    (cases hstate : p.power.state with
      | active => exact absurd hstate hactive
      | stopped => exact absurd hstate hstopped
      | park => exact absurd hstate hpark
      | hold => simp [Part.clearNow_hold hstate, *]
      | brace => simp [Part.clearNow_brace hstate, *])

/-! ## What the whole act leaves -/

theorem Part.takeClear_now {p : Part} (hpending : p.power.clearPending = true) (hactive : p.power.state ≠ .active)
    (happend : p.head.append = none) : p.takeClear = p.clearNow := by
  have hinactive := p.active_eq_false_iff.2 hactive
  simp [Part.takeClear, hpending, hinactive, happend]

theorem Part.takeClear_waits {p : Part} (h : p.power.clearPending = false ∨ p.power.state = .active ∨ p.head.append ≠ none) :
    p.takeClear = p := by
  unfold Part.takeClear
  rw [if_neg]
  rcases h with h | h | h
  · simp [h]
  · simp [p.active_iff.2 h]
  · simp [Option.isNone_iff_eq_none, h]

theorem exec_clearTakesEffect {s : State} (h : s.part.live = true) :
    exec .clearTakesEffect s = .next (s.withPart s.part.takeClear.refreshErase) := run_act_live h

/-- After the clear every held slot reads ABANDONED, and no other byte has changed (R114). -/
theorem Part.clearNow_bytes {p : Part} (hsettled : p.cleared.SettledFrom p.clearNow) (hwf : Mem.wf p.mem = true) :
    (∀ n : SlotNo, (p.slot n).held = true → Mem.read p.clearNow.mem (slotBase n) = 4)
    ∧ ∀ a, (∀ n : SlotNo, (p.slot n).held = true → a ≠ slotBase n) → Mem.read p.clearNow.mem a = Mem.read p.mem a := by
  have hmem : p.clearNow.mem = (p.abandon p.heldSlots).mem := hsettled.mem_eq.trans p.cleared_frame.2.2.2.1
  rw [hmem]
  refine ⟨fun n hn => ?_, fun a ha => ?_⟩
  · rw [Part.read_abandon _ hwf, if_pos ⟨n, (p.mem_heldSlots n).2 hn, rfl⟩]
  · rw [Part.read_abandon _ hwf, if_neg]
    rintro ⟨n, hn, rfl⟩
    exact ha n ((p.mem_heldSlots n).1 hn) rfl

/-- After the clear every slot is free. -/
theorem Part.clearNow_slot {p : Part} (hsettled : p.cleared.SettledFrom p.clearNow) (n : SlotNo) : p.clearNow.slot n = ⟨false, .idle⟩ := by
  have horders := hsettled.orders_eq.trans p.cleared_frame.2.2.2.2.2.2.2.2.2.2.2.2.2.2
  rw [Part.slot, horders]
  exact slot_replicate n _

/-- After the clear no unit holds an order. -/
theorem Part.clearNow_unitSlots {p : Part} (hsettled : p.cleared.SettledFrom p.clearNow) : p.clearNow.unitSlots = [] := by
  obtain ⟨-, -, -, -, hformat, hrecord, hscan, -⟩ := p.cleared_frame
  simp [Part.unitSlots, hsettled.record_eq, hsettled.scan_eq, hsettled.format_eq, hsettled.unattached, hformat, hrecord, hscan]

theorem Part.parks_of_not_pending {p : Part} (h : p.power.parkPending = false) : p.parks = false := by
  rw [Part.parks, h, Bool.and_false]

/-- With no park asked for, the power state after the clear is the one the inputs and levels give, and the mount engine's progress
stands. -/
theorem Part.clearNow_unparked {p : Part} (happend : p.head.append = none) (hactive : p.power.state ≠ .active)
    (hstopped : p.power.state ≠ .stopped) (hpark : p.power.parkPending = false) :
    (p.power.state ≠ .park → p.clearNow.power.state
      = if p.seen.pwarn then .brace else if p.bus.holdLevel || p.bus.parkLevel then .hold else .active)
    ∧ p.clearNow.mount = p.mount := by
  obtain ⟨hformPark, hformBrace, hformHold, hformActive⟩ := Part.clearNow_forms hactive hstopped
  have hstate : p.cleared.power.state = p.power.state := by simp [p.cleared_frame]
  have hmount : p.cleared.mount = p.mount := by simp [p.cleared_frame]
  have hpending : p.cleared.power.parkPending = false := by simp [p.cleared_frame, hpark]
  have hcontained : ∀ st, (p.cleared.enterContained st).power.state = st ∧ (p.cleared.enterContained st).mount = p.mount := fun st => by
    rw [Part.cleared_enterContained st happend, Part.watchQuiet_state, Part.watchQuiet_mount,
      Part.parks_of_not_pending (by exact hpending)]
    exact ⟨rfl, hmount⟩
  by_cases hparked : p.power.state = .park
  · rw [hformPark hparked]
    exact ⟨fun h => absurd hparked h, hmount⟩
  · cases hpwarn : p.seen.pwarn with
    | true =>
      rw [hformBrace hparked hpwarn]
      split
      · next h => exact ⟨fun _ => hstate.trans h, hmount⟩
      · exact ⟨fun _ => (hcontained .brace).1, (hcontained .brace).2⟩
    | false =>
      cases hlevel : p.bus.holdLevel || p.bus.parkLevel with
      | true =>
        rw [hformHold hparked hpwarn hlevel]
        split
        · next h => exact ⟨fun _ => hstate.trans h, hmount⟩
        · exact ⟨fun _ => (hcontained .hold).1, (hcontained .hold).2⟩
      | false =>
        rw [hformActive hparked hpwarn hlevel]
        have hreclaims := Part.reclaims_reclaimReturns { p.cleared with power.state := .active }
        exact ⟨fun _ => (congrArg Power.state hreclaims.power_eq :), hreclaims.mount_eq.trans hmount⟩

/-- Quiet noticed in HOLD raises nothing. -/
theorem Part.watchQuiet_sticky_hold {p : Part} (h : p.power.state = .hold) : p.watchQuiet.bus.sticky = p.bus.sticky := by
  have hnoted : p.quietNoted.bus.sticky = p.bus.sticky := by
    rw [Part.quietNoted_eq]
    split
    · rfl
    · show p.bus.sticky ||| (if p.power.state = .brace then 0x40 else 0) = p.bus.sticky
      rw [if_neg (by simp [h])]
      exact BitVec.or_zero
  rcases p.watchQuiet_cases with ⟨_, hq⟩ | ⟨_, hq⟩ | ⟨_, hq⟩ <;> rw [hq]
  · exact hnoted
  · exact hnoted

/-- With no trigger latched reclaim is as after reset, and no notice is raised but BRACED at a change to BRACE. -/
theorem Part.clearNow_reclaim {p : Part} (happend : p.head.append = none) (hactive : p.power.state ≠ .active)
    (hstopped : p.power.state ≠ .stopped) (hfree : p.mounted = false ∨ p.orders.lowMark < p.freeCount)
    (hbrace : p.power.state ≠ .hold ∨ p.seen.pwarn = false) : p.clearNow.reclaim = Reclaim.reset ∧ p.clearNow.bus.sticky = 0 := by
  have hreset : p.cleared.reclaim = Reclaim.reset := by
    rw [Part.cleared_reclaim]
    rcases hfree with h | h
    · rw [h]; rfl
    · rw [decide_eq_false (by omega), Bool.and_false]; rfl
  have hsticky : p.cleared.bus.sticky = 0 := by simp [p.cleared_frame]
  obtain ⟨hformPark, hformBrace, hformHold, hformActive⟩ := Part.clearNow_forms hactive hstopped
  by_cases hparked : p.power.state = .park
  · rw [hformPark hparked]
    exact ⟨hreset, hsticky⟩
  · cases hpwarn : p.seen.pwarn with
    | true =>
      have hstate : p.power.state = .brace := by
        cases hstate : p.power.state <;> simp_all
      rw [hformBrace hparked hpwarn, if_pos hstate]
      exact ⟨hreset, hsticky⟩
    | false =>
      cases hlevel : p.bus.holdLevel || p.bus.parkLevel with
      | true =>
        rw [hformHold hparked hpwarn hlevel]
        split
        · exact ⟨hreset, hsticky⟩
        · rw [Part.cleared_enterContained _ happend]
          exact ⟨(Part.watchQuiet_frame _).2.2.2.2.2.2.2.2.2.2.2.1.trans hreset, (Part.watchQuiet_sticky_hold rfl).trans hsticky⟩
      | false =>
        rw [hformActive hparked hpwarn hlevel,
          Part.reclaimReturns_nothing (by exact congrArg Reclaim.latchedTrigger hreset)
            (by exact congrArg Reclaim.releasePending hreset)]
        exact ⟨hreset, hsticky⟩

/-- The requests and flights of the units whose work the clear ends (R65, R73). -/
theorem LaneRec.unitsDropped_spec (r : LaneRec) :
    (∀ rq ∈ [Requester.record, .scan, .reclaim], r.unitsDropped.waiting.get rq = none
        ∧ ∀ f, r.unitsDropped.inFlight = some f → f.requester = rq → f.discard = true)
    ∧ (∀ rq ∈ [Requester.mount, .head, .erase], r.unitsDropped.waiting.get rq = r.waiting.get rq)
    ∧ (let discards := ∃ rq ∈ [Requester.record, .scan, .reclaim], ∃ op ms, r.inFlight = some ⟨rq, op, ms, true⟩
       (discards → r.unitsDropped.heldBack = none) ∧ (¬ discards → r.unitsDropped.heldBack = r.heldBack)) := by
  refine ⟨fun rq hrq => ⟨by rw [LaneRec.unitsDropped_waiting, if_pos hrq], fun f hf hreq => ?_⟩, fun rq hrq => ?_, ?_⟩
  · rw [LaneRec.unitsDropped_inFlight] at hf
    obtain ⟨f', _, rfl⟩ := Option.map_eq_some_iff.1 hf
    subst hreq
    by_cases hmem : f'.requester ∈ [Requester.record, .scan, .reclaim]
    · rw [if_pos hmem]
    · rw [if_neg hmem] at hrq
      exact absurd hrq hmem
  · rw [LaneRec.unitsDropped_waiting, if_neg]
    revert rq
    decide
  · intro discards
    have hdiscards : discards ↔ (r.discards .record || r.discards .scan || r.discards .reclaim) = true := by
      simp only [discards, Bool.or_eq_true, LaneRec.discards_iff]
      simp [or_assoc]
    rw [LaneRec.unitsDropped_heldBack, hdiscards]
    exact ⟨fun h => if_pos h, fun h => if_neg h⟩

/-- Settles O24. -/
theorem clearTakesEffect : Obligations.ClearTakesEffect := by
  intro s hlive hpending hactive happend hwf level
  have hstopped := Part.not_stopped_of_live hlive
  have hsettled := Part.settledFrom_clearNow happend hactive hstopped
  obtain ⟨hformPark, hformBrace, hformHold, hformActive⟩ := Part.clearNow_forms hactive hstopped
  obtain ⟨hbytes, hrest⟩ := Part.clearNow_bytes hsettled hwf
  obtain ⟨hpins, hseen, hzeroing, -, hformat, hrecord, hscan, hhead, hdir, hlast, hmount, hpower, hfreeIndex, hbus, horders⟩ :=
    s.part.cleared_frame
  have horders' := hsettled.orders_eq.trans horders
  have hhead' := hsettled.head_eq.trans (congrArg (fun h : Head => { h with orderReq := none, copyReq := none }) hhead)
  have hbus' := hsettled.bus_eq.trans (congrArg Bus.withoutSticky hbus)
  have hclear : s.part.clearNow.power.clearPending = false := hsettled.clearPending.trans (by rw [hpower])
  refine ⟨_, s.part.cleared, by rw [exec_clearTakesEffect hlive, Part.takeClear_now hpending hactive happend], ?_⟩
  simp only [State.withPart, State.slotByte, State.byte, Part.refreshErase_frame, Part.refreshErase_lane_fields,
    Part.refreshErase_slot, Part.refreshErase_unitSlots, Nat.add_zero]
  refine ⟨hbytes, hrest, Part.clearNow_slot hsettled, (congrArg Orders.postQueue horders' :), (congrArg Orders.doneList horders' :),
    (congrArg Orders.lastPost horders' :), Part.clearNow_unitSlots hsettled, (congrArg Orders.intake horders' :),
    (congrArg Orders.lowMark horders' :), (congrArg Orders.highMark horders' :), (congrArg Orders.postMark horders' :),
    hsettled.dir_eq.trans hdir, (congrArg Head.seqCounter hhead' :), (congrArg Head.epochCounter hhead' :), (congrArg Bus.mask hbus' :),
    (congrArg Bus.pointer hbus' :), (congrArg Bus.winStart hbus' :), (congrArg Bus.winEnd hbus' :), (congrArg Bus.readLatch hbus' :),
    (congrArg Bus.holdLevel hbus' :), (congrArg Bus.parkLevel hbus' :), ?_, ?_, ?_, hsettled.pins_eq.trans hpins,
    hsettled.seen_eq.trans hseen, hsettled.zeroing_eq.trans hzeroing, hsettled.lastHeadLane_eq.trans hlast,
    (congrArg Head.recordsInHead hhead' :), (congrArg Head.lastGranted hhead' :), ?_, hclear, s.part.cleared_reclaim, hbus, hrecord,
    hscan, hformat, hmount, hdir, hpins, hseen, hzeroing, hlast, hfreeIndex, hsettled.mem_eq.symm, horders, hpower, hhead,
    s.part.cleared_seg, ?_, ?_, ?_, ?_, ?_, ?_, ?_, ?_, ?_, ?_, ?_⟩
  · refine Bus.eq_of_withoutSticky ?_ rfl
    exact hbus'
  · have hkept := congrArg (fun m : Mount => { m with settle := s.part.mount.settle }) hsettled.mount_eq
    rw [hmount] at hkept
    exact hkept
  · exact fun hpark => (Part.clearNow_unparked happend hactive hstopped hpark).2
  · intro l
    have hlane := hsettled.lanes l
    simp only [LaneRec.standing, Prod.mk.injEq] at hlane
    obtain ⟨hstate, hcount, hflight, hgranted, hlink⟩ := hlane
    rw [s.part.cleared_lane] at hstate hcount hgranted hlink
    exact ⟨hstate, hcount, hflight, hgranted, hlink⟩
  · intro l
    rw [s.part.cleared_lane]
    obtain ⟨hdropped, hkept, hheldBack⟩ := (s.part.lane l).unitsDropped_spec
    exact ⟨hdropped, hkept, LaneRec.unitsDropped_inFlight _, hheldBack, rfl, rfl, rfl, rfl⟩
  · intro hpark
    rw [hformPark hpark]
  · intro hpark hpwarn
    rw [hformBrace hpark hpwarn]
  · intro hpark hpwarn hlevel
    rw [hformHold hpark hpwarn hlevel]
  · intro hpark hpwarn hlevel
    rw [hformActive hpark hpwarn hlevel]
    refine ⟨rfl, ?_⟩
    exact (congrArg Power.state (Part.reclaims_reclaimReturns { s.part.cleared with power.state := .active }).power_eq :)
  · intro hpark
    rw [hformPark hpark, hpower]
    exact hpark
  · intro hbrace hpwarn
    rw [hformBrace (by simp [hbrace]) hpwarn, if_pos hbrace, hpower]
    exact hbrace
  · intro hhold hpwarn hlevel
    rw [hformHold (by simp [hhold]) hpwarn hlevel, if_pos hhold, hpower]
    exact hhold
  · exact fun hpark hpending => (Part.clearNow_unparked happend hactive hstopped hpending).1 hpark
  · exact fun hfree hbrace => Part.clearNow_reclaim happend hactive hstopped hfree hbrace
  · intro hpark
    rw [hformPark hpark, hpower, hbus, s.part.cleared_reclaim]
    exact ⟨hpark, rfl, rfl, rfl⟩

end Sys2Proof.Machine
end

section
/-! SUPPORT. The CLEAR and CUT requests of a CONTROL write, in the order of each row (R88, R146, R178, R185). -/

namespace Sys2Proof.Machine

/-! ## The cut (R146) -/

/-- The outcome of a scan's ending with a class and reason (R147). -/
def scanResult (o : ScanOrder) (r : Result) (resume : Long) : Result :=
  { r with damagedSeen := decide (1 ≤ o.damaged), length := BitVec.ofNat 16 o.hits, examined := BitVec.ofNat 16 o.examined,
           resume := resume, damaged := BitVec.ofNat 8 o.damaged }

theorem Part.endScan_eq (p : Part) (o : ScanOrder) (r : Result) (resume : Long) :
    p.endScan o r resume = { p with scan := none }.complete o.slot (scanResult o r resume) := rfl

theorem Part.cutScan_none {p : Part} (h : p.scan = none) : p.cutScan = p := by
  unfold Part.cutScan
  rw [h]

theorem Part.cutScan_active {p : Part} {o : ScanOrder} (h : p.power.state = .active) (hs : p.scan = some o) :
    p.cutScan = if o.inHand = none then p.endScan o (partialResult .cut) o.cursor
      else { p with scan := some { o with cutPending := true } } := by
  unfold Part.cutScan
  rw [hs]
  show (if p.active then _ else _) = _
  rw [if_pos (p.active_iff.2 h)]
  show (if o.inHand.isSome then _ else _) = _
  cases hi : o.inHand with
  | none => rfl
  | some hand => rfl

theorem Part.cutScan_inactive {p : Part} {o : ScanOrder} (h : p.power.state ≠ .active) (hs : p.scan = some o) :
    p.cutScan = (p.dropScanHand o).endScan o (partialResult .cut) o.cursor := by
  unfold Part.cutScan
  rw [hs]
  show (if p.active then _ else _) = _
  rw [p.active_eq_false_iff.2 h]
  rfl

/-- What a cut outside ACTIVE does beyond the scan's own requests and readers count. -/
theorem Part.cutScan_ends {p : Part} {o : ScanOrder} (h : p.power.state ≠ .active) (hs : p.scan = some o) :
    p.cutScan.scan = none ∧ p.cutScan.orders = p.orders.completed o.slot
    ∧ p.cutScan.mem = p.mem.completed o.slot (scanResult o (partialResult .cut) o.cursor)
    ∧ p.cutScan.power = p.power ∧ p.cutScan.seen = p.seen ∧ p.cutScan.head = p.head := by
  have hdropped : (p.dropScanHand o).orders = p.orders ∧ (p.dropScanHand o).mem = p.mem ∧ (p.dropScanHand o).power = p.power
      ∧ (p.dropScanHand o).seen = p.seen ∧ (p.dropScanHand o).head = p.head := by
    unfold Part.dropScanHand
    split <;> exact ⟨rfl, rfl, rfl, rfl, rfl⟩
  obtain ⟨horders, hmem, hpower, hseen, hhead⟩ := hdropped
  rw [Part.cutScan_inactive h hs, Part.endScan_eq, Part.complete_mem, Part.complete_orders]
  simp only [Part.complete_frame]
  rw [horders, hmem, hpower, hseen, hhead]
  exact ⟨trivial, rfl, rfl, rfl, rfl, rfl⟩

/-! ## The levels outside ACTIVE -/

/-- What the levels leave outside ACTIVE where they do not bring the return to ACTIVE. -/
structure Part.LevelsKept (v : Word) (p q : Part) : Prop where
  rest : q.orders = p.orders ∧ q.mem = p.mem ∧ q.record = p.record ∧ q.scan = p.scan ∧ q.head = p.head ∧ q.dir = p.dir
    ∧ q.segs = p.segs ∧ q.reclaim = p.reclaim
  clearPending : q.power.clearPending = p.power.clearPending
  levels : q.bus.holdLevel = v.getLsbD 0 ∧ q.bus.parkLevel = v.getLsbD 1
  inactive : q.power.state ≠ .active ∧ (p.power.state ≠ .stopped → q.power.state ≠ .stopped)

theorem Part.levelled_watchQuiet_kept {p : Part} (v : Word) (h : p.power.state = .hold ∨ p.power.state = .brace) :
    p.LevelsKept v (p.levelled v).watchQuiet := by
  obtain ⟨hhold, hpark⟩ := (p.levelled v).watchQuiet_levels
  refine ⟨by simp [Part.levelled], by simp [Part.levelled], ⟨hhold, hpark⟩, ?_⟩
  have hstate : (p.levelled v).power.state = p.power.state := rfl
  rw [Part.watchQuiet_state, hstate]
  split
  · simp
  · rcases h with h | h <;> simp [h]

/-- In HOLD the levels bring the return to ACTIVE only where both are 0, PWARN is deasserted and no clear is pending. -/
theorem Part.controlLevels_hold_stays {p : Part} {v : Word} (h : p.power.state = .hold)
    (hstays : v.getLsbD 0 = true ∨ v.getLsbD 1 = true ∨ p.seen.pwarn = true ∨ p.power.clearPending = true) :
    p.controlLevels v = (p.levelled v).watchQuiet := by
  rw [Part.controlLevels_hold v h, if_neg]
  rintro ⟨h0, h1, hpwarn, hclear⟩
  rw [h0, h1, hpwarn, hclear] at hstays
  simp at hstays

theorem Part.controlLevels_kept {p : Part} {v : Word} (hactive : p.power.state ≠ .active) (hstopped : p.power.state ≠ .stopped)
    (hhold : p.power.state = .hold →
      (v.getLsbD 0 = true ∨ v.getLsbD 1 = true ∨ p.seen.pwarn = true ∨ p.power.clearPending = true)) :
    p.LevelsKept v (p.controlLevels v) := by
  cases hstate : p.power.state with
  | active => exact absurd hstate hactive
  | stopped => exact absurd hstate hstopped
  | hold =>
    rw [Part.controlLevels_hold_stays hstate (hhold hstate)]
    exact Part.levelled_watchQuiet_kept v (.inl hstate)
  | brace =>
    rw [Part.controlLevels_brace v hstate]
    exact Part.levelled_watchQuiet_kept v (.inr hstate)
  | park =>
    rw [Part.controlLevels_park v hstate]
    refine ⟨⟨rfl, rfl, rfl, rfl, rfl, rfl, rfl, rfl⟩, rfl, ⟨rfl, rfl⟩, ?_⟩
    show p.power.state ≠ .active ∧ _
    exact ⟨hactive, fun _ => hstopped⟩

/-! ## The clear request (R185) -/

theorem Part.requestClear_inactive {p : Part} (h : p.power.state ≠ .active) :
    p.requestClear = { p with power.clearPending := true } := by
  rw [Part.requestClear, p.active_eq_false_iff.2 h]
  rfl

theorem Part.requestClear_active {p : Part} (h : p.power.state = .active) :
    p.requestClear = ({ p with power.clearPending := true } : Part).enterContained .hold := by
  rw [Part.requestClear, p.active_iff.2 h]
  rfl

/-- A clear request leaves the part but for power control, BRACED and the mount engine's requests, no append being in progress. -/
theorem Part.requestClear_kept {p : Part} (happend : p.head.append = none) :
    p.requestClear.orders = p.orders ∧ p.requestClear.mem = p.mem ∧ p.requestClear.record = p.record
    ∧ p.requestClear.scan = p.scan ∧ p.requestClear.head = p.head ∧ p.requestClear.dir = p.dir ∧ p.requestClear.segs = p.segs
    ∧ p.requestClear.reclaim = p.reclaim ∧ p.requestClear.seen = p.seen ∧ p.requestClear.power.clearPending = true := by
  by_cases h : p.power.state = .active
  · rw [Part.requestClear_active h, Part.enterContained_idle _ (by exact happend)]
    simp
  · rw [Part.requestClear_inactive h]
    exact ⟨rfl, rfl, rfl, rfl, rfl, rfl, rfl, rfl, rfl, rfl⟩

/-- The state after a clear request, no park having been asked for in ACTIVE. -/
theorem Part.requestClear_state {p : Part} (happend : p.head.append = none)
    (hpark : p.power.state = .active → p.power.parkPending = false) :
    p.requestClear.power.state = if p.power.state = .active then .hold else p.power.state := by
  by_cases h : p.power.state = .active
  · rw [Part.requestClear_active h, Part.enterContained_idle _ (by exact happend), Part.watchQuiet_state,
      Part.parks_of_not_pending (by exact hpark h), if_pos h]
    rfl
  · rw [Part.requestClear_inactive h, if_neg h]

theorem leByte_extract (v : Long) (k : Nat) : BitVec.ofNat 8 (v.toNat / 256 ^ k) = v.extractLsb' (8 * k) 8 := by
  rw [BitVec.extractLsb', Nat.shiftRight_eq_div_pow, Nat.pow_mul]

/-- The little-endian bytes of a register. -/
theorem leBytes_long (v : Long) :
    leBytes 4 v.toNat = [v.extractLsb' 0 8, v.extractLsb' 8 8, v.extractLsb' 16 8, v.extractLsb' 24 8] := by
  rw [leBytes_four, Nat.div_div_eq_div_mul, Nat.div_div_eq_div_mul, ← leByte_extract v 0, ← leByte_extract v 1,
    ← leByte_extract v 2, ← leByte_extract v 3]
  norm_num

/-- A scan cut outside ACTIVE as its slot shows it (R113, R147). -/
theorem Mem.read_cut {m : Mem} (hwf : Mem.wf m = true) (o : ScanOrder) :
    let q := m.completed o.slot (scanResult o (partialResult .cut) o.cursor)
    Mem.read q (slotBase o.slot) = 3 ∧ Mem.read q (slotBase o.slot + 3) = 2 ∧ Mem.read q (slotBase o.slot + 4) = 33
    ∧ Mem.read q (slotBase o.slot + 28) ++ Mem.read q (slotBase o.slot + 29) ++ Mem.read q (slotBase o.slot + 30)
        ++ Mem.read q (slotBase o.slot + 31)
      = o.cursor.extractLsb' 0 8 ++ o.cursor.extractLsb' 8 8 ++ o.cursor.extractLsb' 16 8 ++ o.cursor.extractLsb' 24 8 := by
  intro q
  obtain ⟨hphase, hcls, hreason, -⟩ := Mem.read_completed_outcome hwf o.slot (scanResult o (partialResult .cut) o.cursor)
  have hresume := (Mem.read_completed_fields hwf o.slot (scanResult o (partialResult .cut) o.cursor)).2.2.2
  rw [show (scanResult o (partialResult .cut) o.cursor).resume = o.cursor from rfl, leBytes_long] at hresume
  simp only [show List.range 4 = [0, 1, 2, 3] from rfl, List.map_cons, List.map_nil, List.cons.injEq, and_true] at hresume
  obtain ⟨h0, h1, h2, h3⟩ := hresume
  refine ⟨hphase, hcls, hreason, ?_⟩
  rw [← h0, ← h1, ← h2, ← h3]

/-! ## The rows' requests -/

/-- With CLEAR and CUT 1 the row CLEAR lets the clear take effect before the cut, which then finds no scan. -/
theorem Part.clearRow_both {p : Part} {v : Word} (hclear : v.getLsbD 2 = true) (hcut : v.getLsbD 3 = true)
    (hstopped : p.power.state ≠ .stopped) (happend : p.head.append = none)
    (hpark : p.power.state = .active → p.power.parkPending = false) :
    ∃ q : Part, (((p.controlClear v).controlLevels v).clearBeforeCut v).controlCut v = q.clearNow
      ∧ q.cleared.SettledFrom q.clearNow ∧ q.mem = p.mem ∧ q.orders = p.orders := by
  obtain ⟨horders, hmem, -, -, hhead, -, -, -, -, hpending⟩ := Part.requestClear_kept happend
  have hstate := Part.requestClear_state happend hpark
  have hinactive : p.requestClear.power.state ≠ .active ∧ p.requestClear.power.state ≠ .stopped := by
    rw [hstate]
    split
    · simp
    · next h => exact ⟨h, hstopped⟩
  have hkept := Part.controlLevels_kept (v := v) hinactive.1 hinactive.2 fun _ => .inr (.inr (.inr hpending))
  obtain ⟨horders', hmem', -, -, hhead', -⟩ := hkept.rest
  have happend' : (p.requestClear.controlLevels v).head.append = none := by rw [hhead', hhead, happend]
  have hsettled := Part.settledFrom_clearNow happend' hkept.inactive.1 (hkept.inactive.2 hinactive.2)
  refine ⟨p.requestClear.controlLevels v, ?_, hsettled, hmem'.trans hmem, horders'.trans horders⟩
  have htaken : ∀ q : Part, q.clearBeforeCut v = q.takeClear := fun q => by
    rw [Part.clearBeforeCut, hclear, hcut]
    rfl
  rw [Part.controlClear_on _ hclear, htaken, Part.takeClear_now (hkept.clearPending.trans hpending) hkept.inactive.1 happend',
    Part.controlCut_on _ hcut, Part.cutScan_none]
  exact hsettled.scan_eq.trans (Part.cleared_frame _).2.2.2.2.2.2.1

/-- The orders of a held SCAN once it has been cut outside ACTIVE. -/
structure Part.ScanCut (o : ScanOrder) (p q : Part) : Prop where
  scan : q.scan = none
  orders : q.orders = p.orders.completed o.slot
  mem : q.mem = p.mem.completed o.slot (scanResult o (partialResult .cut) o.cursor)

/-- Outside ACTIVE the rows that hand the cut on before the clear takes effect end the scan, and leave the clear pending. -/
theorem Part.cutRows_inactive {p : Part} {v : Word} {o : ScanOrder} (hactive : p.power.state ≠ .active)
    (hstopped : p.power.state ≠ .stopped) (hscan : p.scan = some o)
    (hhold : p.power.state = .hold →
      (v.getLsbD 0 = true ∨ v.getLsbD 1 = true ∨ p.seen.pwarn = true ∨ p.power.clearPending = true)) :
    p.ScanCut o (p.controlLevels v).cutScan ∧ (p.controlLevels v).cutScan.power.state ≠ .active
    ∧ p.ScanCut o (p.controlLevels v).requestClear.cutScan
    ∧ (p.controlLevels v).requestClear.cutScan.power.clearPending = true
    ∧ p.ScanCut o (p.cutScan.controlLevels v) ∧ (p.cutScan.controlLevels v).power.state ≠ .active := by
  have hkept := Part.controlLevels_kept hactive hstopped hhold
  obtain ⟨horders, hmem, -, hscan', -⟩ := hkept.rest
  obtain ⟨hnone, hcompleted, hwritten, hpower, -⟩ := Part.cutScan_ends hkept.inactive.1 (hscan'.trans hscan)
  have hrequested := Part.requestClear_inactive hkept.inactive.1
  obtain ⟨hnone', hcompleted', hwritten', hpower', -⟩ :=
    Part.cutScan_ends (p := (p.controlLevels v).requestClear) (o := o) (by rw [hrequested]; exact hkept.inactive.1)
      (by rw [hrequested]; exact hscan'.trans hscan)
  obtain ⟨hnone'', hcompleted'', hwritten'', hpower'', hseen'', -⟩ := Part.cutScan_ends hactive hscan
  have hkept'' := Part.controlLevels_kept (p := p.cutScan) (v := v) (by rwa [hpower'']) (by rwa [hpower''])
    (by rwa [hpower'', hseen''])
  obtain ⟨horders₂, hmem₂, -, hscan₂, -⟩ := hkept''.rest
  refine ⟨⟨hnone, by rw [hcompleted, horders], by rw [hwritten, hmem]⟩, by rw [hpower]; exact hkept.inactive.1,
    ⟨hnone', ?_, ?_⟩, ?_, ⟨hscan₂.trans hnone'', horders₂.trans hcompleted'', hmem₂.trans hwritten''⟩, hkept''.inactive.1⟩
  · rw [hcompleted', hrequested]
    exact congrArg (Orders.completed · o.slot) horders
  · rw [hwritten', hrequested]
    exact congrArg (Mem.completed · o.slot _) hmem
  · rw [hpower', hrequested]

/-- What the outcome of a cut shows in the slot table, the done list and the slot. -/
theorem Part.ScanCut.outcome {o : ScanOrder} {p q : Part} (h : p.ScanCut o q) (hwf : Mem.wf p.mem = true) :
    q.scan = none ∧ q.orders.doneList = p.orders.doneList ++ [o.slot] ∧ q.slot o.slot = ⟨true, .done⟩
    ∧ Mem.read q.mem (slotBase o.slot) = 3 ∧ Mem.read q.mem (slotBase o.slot + 3) = 2 ∧ Mem.read q.mem (slotBase o.slot + 4) = 33
    ∧ Mem.read q.mem (slotBase o.slot + 28) ++ Mem.read q.mem (slotBase o.slot + 29) ++ Mem.read q.mem (slotBase o.slot + 30)
        ++ Mem.read q.mem (slotBase o.slot + 31)
      = o.cursor.extractLsb' 0 8 ++ o.cursor.extractLsb' 8 8 ++ o.cursor.extractLsb' 16 8 ++ o.cursor.extractLsb' 24 8 := by
  obtain ⟨hscan, horders, hmem⟩ := h
  rw [hmem, Part.slot, horders]
  exact ⟨hscan, rfl, Vector.getElem_set_self o.slot.isLt, Mem.read_cut hwf o⟩

/-- What a CONTROL write with CLEAR 1 and CUT 0 leaves, and the state it gives, no append being in progress. -/
structure Part.ClearAsked (v : Word) (p q : Part) : Prop where
  clearPending : q.power.clearPending = true
  state : q.power.state = if v.getLsbD 1 && p.lanesIdle then .park else if p.power.state = .active then .hold else p.power.state
  parkPending : q.power.parkPending = (v.getLsbD 1 && !(v.getLsbD 1 && p.lanesIdle))
  levels : q.bus.holdLevel = v.getLsbD 0 ∧ q.bus.parkLevel = v.getLsbD 1
  rest : q.orders = p.orders ∧ q.mem = p.mem ∧ q.record = p.record ∧ q.scan = p.scan ∧ q.head = p.head ∧ q.dir = p.dir
    ∧ q.segs = p.segs ∧ q.reclaim = p.reclaim

/-- The watch for quiet with the levels of a CONTROL write in a containment. -/
theorem Part.clearAsked_watchQuiet {p r : Part} {v : Word} (hstate : r.power.state = .hold ∨ r.power.state = .brace)
    (hfrom : r.power.state = if p.power.state = .active then .hold else p.power.state) (happend : p.head.append = none)
    (hidle : r.lanesIdle = p.lanesIdle)
    (hrest : r.orders = p.orders ∧ r.mem = p.mem ∧ r.record = p.record ∧ r.scan = p.scan ∧ r.head = p.head ∧ r.dir = p.dir
      ∧ r.segs = p.segs ∧ r.reclaim = p.reclaim) :
    p.ClearAsked v ({ (r.levelled v).watchQuiet with power.clearPending := true } : Part) := by
  have hkept := (Part.levelled_watchQuiet_kept v hstate)
  obtain ⟨h1, h2, h3, h4, h5, h6, h7, h8⟩ := hkept.rest
  obtain ⟨g1, g2, g3, g4, g5, g6, g7, g8⟩ := hrest
  have hparks : (r.levelled v).parks = (v.getLsbD 1 && p.lanesIdle) := by
    rw [Part.levelled_parks v hstate, g5, happend, hidle, Option.isNone_none, Bool.and_true]
  have hpower := (r.levelled v).watchQuiet_state
  have hpending := (r.levelled v).watchQuiet_parkPending
  rw [hparks] at hpower hpending
  refine ⟨rfl, ?_, hpending, hkept.levels, h1.trans g1, h2.trans g2, h3.trans g3, h4.trans g4, h5.trans g5, h6.trans g6,
    h7.trans g7, h8.trans g8⟩
  refine hpower.trans ?_
  rw [← hfrom]
  rfl

/-- The same, a clear being pending already. -/
theorem Part.clearAsked_watchQuiet_pending {p r : Part} {v : Word} (hstate : r.power.state = .hold ∨ r.power.state = .brace)
    (hfrom : r.power.state = if p.power.state = .active then .hold else p.power.state) (happend : p.head.append = none)
    (hidle : r.lanesIdle = p.lanesIdle)
    (hrest : r.orders = p.orders ∧ r.mem = p.mem ∧ r.record = p.record ∧ r.scan = p.scan ∧ r.head = p.head ∧ r.dir = p.dir
      ∧ r.segs = p.segs ∧ r.reclaim = p.reclaim) (hpending : r.power.clearPending = true) :
    p.ClearAsked v (r.levelled v).watchQuiet := by
  have hasked := Part.clearAsked_watchQuiet (v := v) hstate hfrom happend hidle hrest
  have hkept : (r.levelled v).watchQuiet.power.clearPending = true :=
    (Part.levelled_watchQuiet_kept v hstate).clearPending.trans hpending
  rwa [← hkept] at hasked

/-- The levels first, then the clear (rows HOLD, PARK and CUT). -/
theorem Part.clearAsked_levelsFirst {p : Part} {v : Word} (happend : p.head.append = none)
    (hstate : p.power.state = .brace ∨ (p.power.state = .active ∧ p.power.parkPending = false)
      ∨ (p.power.state = .hold ∧ (v.getLsbD 0 = true ∨ v.getLsbD 1 = true ∨ p.seen.pwarn = true ∨ p.power.clearPending = true))) :
    p.ClearAsked v (p.controlLevels v).requestClear := by
  have hkept : p.orders = p.orders ∧ p.mem = p.mem ∧ p.record = p.record ∧ p.scan = p.scan ∧ p.head = p.head ∧ p.dir = p.dir
      ∧ p.segs = p.segs ∧ p.reclaim = p.reclaim := ⟨rfl, rfl, rfl, rfl, rfl, rfl, rfl, rfl⟩
  have hwatched : ∀ r : Part, (r.power.state = .hold ∨ r.power.state = .brace) →
      (r.levelled v).watchQuiet.requestClear = { (r.levelled v).watchQuiet with power.clearPending := true } := fun r hr =>
    Part.requestClear_inactive (Part.levelled_watchQuiet_kept v hr).inactive.1
  rcases hstate with hbrace | ⟨hactive, hpark⟩ | ⟨hhold, hstays⟩
  · rw [Part.controlLevels_brace v hbrace, hwatched p (.inr hbrace)]
    exact Part.clearAsked_watchQuiet (.inr hbrace) (by simp [hbrace]) happend rfl hkept
  · have hfrom : PowerState.hold = if p.power.state = .active then .hold else p.power.state := (if_pos hactive).symm
    rw [Part.controlLevels_active v hactive]
    by_cases hlevel : (v.getLsbD 0 || v.getLsbD 1) = true
    · rw [if_pos hlevel, Part.enterContained_idle _ (by exact happend)]
      have hasked := Part.clearAsked_watchQuiet (p := p) (v := v)
        (r := { p with power.state := .hold, power.quietSeen := false }) (.inl rfl) hfrom happend rfl hkept
      rw [← hwatched _ (.inl rfl)] at hasked
      exact hasked
    · obtain ⟨h0, h1⟩ : v.getLsbD 0 = false ∧ v.getLsbD 1 = false := by rwa [Bool.not_eq_true, Bool.or_eq_false_iff] at hlevel
      rw [if_neg hlevel, Part.requestClear_active (by exact hactive), Part.enterContained_idle _ (by exact happend)]
      have hasked := Part.clearAsked_watchQuiet_pending (p := p) (v := v)
        (r := { p with power.state := .hold, power.quietSeen := false, power.clearPending := true }) (.inl rfl) hfrom happend rfl
        hkept rfl
      have hsame : ({ p with power.state := .hold, power.quietSeen := false, power.clearPending := true } : Part).levelled v
          = { p.keepLevels (v.getLsbD 0) (v.getLsbD 1) with
              power.clearPending := true, power.state := .hold, power.quietSeen := false } := by
        simp only [Part.levelled, Part.keepLevels, h1, hpark]
      rw [hsame] at hasked
      exact hasked
  · rw [Part.controlLevels_hold_stays hhold hstays, hwatched p (.inl hhold)]
    exact Part.clearAsked_watchQuiet (.inl hhold) (by simp [hhold]) happend rfl hkept

theorem Part.watchQuiet_lanesIdle {p : Part} (h : p.parks = false) : p.watchQuiet.lanesIdle = p.lanesIdle := by
  have hlanes : p.watchQuiet.lanes = p.lanes := by
    rcases p.watchQuiet_cases with ⟨_, hq⟩ | ⟨_, hq⟩ | ⟨hparks, _⟩
    · rw [hq]
    · rw [hq]; simp
    · rw [h] at hparks
      exact absurd hparks Bool.false_ne_true
  rw [Part.lanesIdle, hlanes]
  rfl

/-- The clear first, then the levels (row CLEAR). -/
theorem Part.clearAsked_clearFirst {p : Part} {v : Word} (happend : p.head.append = none)
    (hstate : p.power.state = .brace ∨ (p.power.state = .active ∧ p.power.parkPending = false) ∨ p.power.state = .hold) :
    p.ClearAsked v (p.requestClear.controlLevels v) := by
  obtain ⟨h1, h2, h3, h4, h5, h6, h7, h8, -, hpending⟩ := Part.requestClear_kept happend
  have hpark : p.power.state = .active → p.power.parkPending = false := by
    rcases hstate with h | ⟨-, h⟩ | h <;> simp_all
  have hfrom := Part.requestClear_state happend hpark
  have hcontained : p.requestClear.power.state = .hold ∨ p.requestClear.power.state = .brace := by
    rw [hfrom]
    rcases hstate with h | ⟨h, -⟩ | h <;> simp [h]
  have hidle : p.requestClear.lanesIdle = p.lanesIdle := by
    by_cases hactive : p.power.state = .active
    · rw [Part.requestClear_active hactive, Part.enterContained_idle _ (by exact happend),
        Part.watchQuiet_lanesIdle (Part.parks_of_not_pending (by exact hpark hactive))]
      rfl
    · rw [Part.requestClear_inactive hactive]
      rfl
  have hlevels : p.requestClear.controlLevels v = (p.requestClear.levelled v).watchQuiet := by
    rcases hcontained with h | h
    · exact Part.controlLevels_hold_stays h (.inr (.inr (.inr hpending)))
    · exact Part.controlLevels_brace v h
  rw [hlevels]
  exact Part.clearAsked_watchQuiet_pending hcontained hfrom happend hidle ⟨h1, h2, h3, h4, h5, h6, h7, h8⟩ hpending

theorem Part.dropWork_spec (p : Part) (rq : Requester) (l : Lane) :
    let r := p.lane l
    let x := (p.dropWork rq).lane l
    let discards := rq ∈ [Requester.record, .scan, .reclaim] ∧ ∃ op ms, r.inFlight = some ⟨rq, op, ms, true⟩
    x.waiting = r.waiting.set rq none
      ∧ x.inFlight = r.inFlight.map (fun f => if f.requester = rq then { f with discard := true } else f)
      ∧ (discards → x.heldBack = none) ∧ (¬ discards → x.heldBack = r.heldBack)
      ∧ { x with waiting := r.waiting, inFlight := r.inFlight, heldBack := r.heldBack } = r := by
  intro r x discards
  have hx : x = r.dropWork rq := p.lane_dropWork rq l
  have hdiscards : discards ↔ r.discards rq = true := (r.discards_iff rq).symm
  rw [hx, LaneRec.dropWork_eq, hdiscards]
  exact ⟨rfl, rfl, fun h => if_pos h, fun h => if_neg h, rfl⟩

/-- With the cut on its own the row CUT hands it on first, then the levels. -/
theorem exec_cut_only {s : State} {d v : Word} (hv : s.part.writeValue .control d = some v) (h2 : v.getLsbD 2 = false)
    (h3 : v.getLsbD 3 = true) : exec (.cut d) s = .next (s.withPart (s.part.cutScan.controlLevels v).refreshErase) := by
  rw [exec_cut hv, Part.controlCut_on _ h3, Part.controlClear_off _ h2]

/-- The levels, the clear and the cut as their owners take them. -/
theorem Part.controlFields_spec (p : Part) (v : Word) :
    (p.controlClear v = if v.getLsbD 2 then
        (if p.power.state = .active then ({ p with power.clearPending := true } : Part).enterContained .hold
         else { p with power.clearPending := true }) else p)
    ∧ (p.controlCut v = if v.getLsbD 3 then p.cutScan else p)
    ∧ p.clearBeforeCut v = if v.getLsbD 2 = true ∧ v.getLsbD 3 = true then p.takeClear else p := by
  refine ⟨?_, rfl, ?_⟩
  · unfold Part.controlClear
    split
    · by_cases h : p.power.state = .active
      · rw [Part.requestClear_active h, if_pos h]
      · rw [Part.requestClear_inactive h, if_neg h]
    · rfl
  · unfold Part.clearBeforeCut
    simp only [Bool.and_eq_true]

/-- In PARK the rows with CLEAR 1 and CUT 0 note the clear and let the levels act on the wake. -/
theorem Part.clearInPark {p : Part} (v : Word) (h : p.power.state = .park) :
    (p.controlLevels v).requestClear = p.requestClear.controlLevels v
    ∧ p.requestClear.controlLevels v = { p with
        bus.holdLevel := v.getLsbD 0, bus.parkLevel := v.getLsbD 1, power.clearPending := true,
        power.wake := if v.getLsbD 1 then none else if p.power.wake.isSome then p.power.wake else some ⟨p.seen.storeGood⟩ } := by
  have hcleared : p.requestClear.controlLevels v = { p with
        bus.holdLevel := v.getLsbD 0, bus.parkLevel := v.getLsbD 1, power.clearPending := true,
        power.wake := if v.getLsbD 1 then none else if p.power.wake.isSome then p.power.wake else some ⟨p.seen.storeGood⟩ } := by
    rw [Part.requestClear_inactive (by simp [h]), Part.controlLevels_park v (by exact h)]
    rfl
  refine ⟨?_, hcleared⟩
  have hinactive : (p.controlLevels v).power.state ≠ .active := by
    rw [Part.controlLevels_park v h]
    show p.power.state ≠ .active
    simp [h]
  rw [hcleared, Part.requestClear_inactive hinactive, Part.controlLevels_park v h]
  rfl

/-- Settles O23. -/
theorem requestsReachOwners : Obligations.RequestsReachOwners := by
  refine ⟨fun s d v hv => ⟨exec_hold hv, exec_park hv, exec_clear hv, exec_cut hv⟩,
    fun p v => ⟨Part.controlLevels_active v, Part.controlLevels_hold v, Part.controlLevels_brace v, Part.controlLevels_park v,
      p.controlFields_spec v⟩,
    fun p => ⟨Part.takeClear_now, Part.takeClear_waits⟩, fun s hlive => exec_clearTakesEffect hlive,
    fun s d v hv h2 h3 hwf => ⟨fun happend hpark => ?_, fun o c hc hactive hscan hhold => ?_⟩, fun p => ?_,
    fun p rq l => ⟨rfl, p.dropWork_spec rq l⟩, fun s d v hv h2 h3 => ?_, fun s d v hv h0 h1 h2 h3 hactive => ?_,
    fun s d v hv h2 h3 => ⟨fun hscan => ?_, fun o hactive hscan hwf hhold => ?_⟩⟩
  · have hstopped := Part.not_stopped_of_live (Part.live_of_writeValue hv)
    obtain ⟨q, hq, hsettled, hmem, horders⟩ := Part.clearRow_both h2 h3 hstopped happend hpark
    have hslots : ∀ n, q.slot n = s.part.slot n := fun n => by rw [Part.slot, horders]; rfl
    obtain ⟨hbytes, hrest⟩ := Part.clearNow_bytes hsettled (by rwa [hmem])
    obtain ⟨-, -, -, -, -, -, hscan, -, -, -, -, hpower, -, -, hcleared⟩ := q.cleared_frame
    simp only [hslots, hmem] at hbytes hrest
    refine ⟨_, exec_clear hv, ?_⟩
    rw [hq]
    simp only [State.withPart, State.slotByte, State.byte, Part.refreshErase_frame, Part.refreshErase_slot, Nat.add_zero]
    exact ⟨hsettled.scan_eq.trans hscan, hsettled.clearPending.trans (by rw [hpower]), Part.clearNow_slot hsettled,
      (congrArg Orders.doneList (hsettled.orders_eq.trans hcleared) :), hbytes, hrest⟩
  · have hstopped := Part.not_stopped_of_live (Part.live_of_writeValue hv)
    obtain ⟨hlevelsCut, hinactive, hlevelsClearCut, hpending, hcutLevels, hinactive'⟩ :=
      Part.cutRows_inactive hactive hstopped hscan hhold
    have hended : ∀ q : Part, s.part.ScanCut o q → q.power.clearPending = true →
        exec c s = .next (s.withPart q.refreshErase) → ∃ t, exec c s = .next t ∧ t.part.scan = none
          ∧ t.part.power.clearPending = true ∧ t.part.orders.doneList = s.part.orders.doneList ++ [o.slot]
          ∧ t.part.slot o.slot = ⟨true, .done⟩ ∧ t.slotByte o.slot 0 = 3 ∧ t.slotByte o.slot 3 = 2 ∧ t.slotByte o.slot 4 = 33 := by
      intro q hcut hclear hexec
      obtain ⟨hnone, hdone, hslot, hphase, hcls, hreason, -⟩ := hcut.outcome hwf
      refine ⟨_, hexec, ?_⟩
      simp only [State.withPart, State.slotByte, State.byte, Part.refreshErase_frame, Part.refreshErase_slot, Nat.add_zero]
      exact ⟨hnone, hclear, hdone, hslot, hphase, hcls, hreason⟩
    have hcleared : ∀ q : Part, s.part.ScanCut o q → q.power.state ≠ .active →
        s.part.ScanCut o q.requestClear ∧ q.requestClear.power.clearPending = true := fun q hcut hq => by
      rw [Part.requestClear_inactive hq]
      exact ⟨⟨hcut.scan, hcut.orders, hcut.mem⟩, rfl⟩
    simp only [List.mem_cons, List.not_mem_nil, or_false] at hc
    rcases hc with rfl | rfl | rfl
    · refine hended _ hlevelsClearCut hpending ?_
      rw [exec_hold hv, Part.controlClear_on _ h2, Part.controlCut_on _ h3]
    · obtain ⟨hcut, hclear⟩ := hcleared _ hlevelsCut hinactive
      refine hended _ hcut hclear ?_
      rw [exec_park hv, Part.controlCut_on _ h3, Part.controlClear_on _ h2]
    · obtain ⟨hcut, hclear⟩ := hcleared _ hcutLevels hinactive'
      refine hended _ hcut hclear ?_
      rw [exec_cut hv, Part.controlCut_on _ h3, Part.controlClear_on _ h2]
  · intro cut
    refine ⟨Part.cutScan_none, fun o hscan => ⟨fun hactive hhand => ?_, fun hactive hhand => ?_, fun hactive hhand => ?_,
      fun h hactive hhand => ?_⟩⟩
    · rw [Part.cutScan_active hactive hscan, if_neg hhand]
    · rw [Part.cutScan_active hactive hscan, if_pos hhand]
      rfl
    · rw [Part.cutScan_inactive hactive hscan, Part.dropScanHand, hhand]
      rfl
    · rw [Part.cutScan_inactive hactive hscan, Part.dropScanHand, hhand]
      rfl
  · intro parks
    refine ⟨fun happend c hc hstate => ?_, fun hpark c hc => ?_⟩
    · have hasked : ∀ q : Part, s.part.ClearAsked v q → exec c s = .next (s.withPart q.refreshErase) →
          ∃ t, exec c s = .next t ∧ t.part.power.clearPending = true
          ∧ t.part.power.state = (if parks then .park else if s.part.power.state = .active then .hold else s.part.power.state)
          ∧ t.part.power.parkPending = (v.getLsbD 1 && !parks)
          ∧ t.part.bus.holdLevel = v.getLsbD 0 ∧ t.part.bus.parkLevel = v.getLsbD 1
          ∧ t.part.orders = s.part.orders ∧ t.part.mem = s.part.mem ∧ t.part.record = s.part.record ∧ t.part.scan = s.part.scan
          ∧ t.part.head = s.part.head ∧ t.part.dir = s.part.dir ∧ t.part.segs = s.part.segs ∧ t.part.reclaim = s.part.reclaim := by
        intro q ⟨hclear, hpower, hpending, hlevels, hrest⟩ hexec
        refine ⟨_, hexec, ?_⟩
        simp only [State.withPart, Part.refreshErase_frame]
        exact ⟨hclear, hpower, hpending, hlevels.1, hlevels.2, hrest⟩
      have hlevelsFirst : c ≠ .clear d → s.part.ClearAsked v (s.part.controlLevels v).requestClear := fun hne =>
        Part.clearAsked_levelsFirst happend (by simpa [hne] using hstate)
      simp only [controlRows, List.mem_cons, List.not_mem_nil, or_false] at hc
      rcases hc with rfl | rfl | rfl | rfl
      · have hexec := exec_hold hv
        rw [Part.controlClear_on _ h2, Part.controlCut_off _ h3] at hexec
        exact hasked _ (hlevelsFirst (by simp)) hexec
      · have hexec := exec_park hv
        rw [Part.controlCut_off _ h3, Part.controlClear_on _ h2] at hexec
        exact hasked _ (hlevelsFirst (by simp)) hexec
      · have hexec := exec_clear hv
        rw [Part.controlClear_on _ h2, Part.clearBeforeCut_off _ (.inr h3), Part.controlCut_off _ h3] at hexec
        exact hasked _ (Part.clearAsked_clearFirst happend (by simpa using hstate)) hexec
      · have hexec := exec_cut hv
        rw [Part.controlCut_off _ h3, Part.controlClear_on _ h2] at hexec
        exact hasked _ (hlevelsFirst (by simp)) hexec
    · obtain ⟨hsame, hparked⟩ := Part.clearInPark v hpark
      simp only [controlRows, List.mem_cons, List.not_mem_nil, or_false] at hc
      rw [← hparked]
      rcases hc with rfl | rfl | rfl | rfl
      · rw [exec_hold hv, Part.controlClear_on _ h2, Part.controlCut_off _ h3, hsame]
      · rw [exec_park hv, Part.controlCut_off _ h3, Part.controlClear_on _ h2, hsame]
      · rw [exec_clear hv, Part.controlClear_on _ h2, Part.clearBeforeCut_off _ (.inr h3), Part.controlCut_off _ h3]
      · rw [exec_cut hv, Part.controlCut_off _ h3, Part.controlClear_on _ h2, hsame]
  · have hlevels : ∀ q : Part, q.power.state = .active → q.controlLevels v = q.keepLevels false false := fun q hq => by
      rw [Part.controlLevels_active v hq, h0, h1]
      rfl
    refine ⟨fun hscan => ?_, fun o hscan hhand => ?_, fun o hscan hhand => ?_⟩
    · rw [exec_cut_only hv h2 h3, Part.cutScan_none hscan, hlevels _ hactive]
      rfl
    · rw [exec_cut_only hv h2 h3, Part.cutScan_active hactive hscan, if_neg (by simpa [Option.isSome_iff_ne_none] using hhand),
        hlevels _ (by exact hactive)]
      rfl
    · rw [exec_cut_only hv h2 h3, Part.cutScan_active hactive hscan, if_pos hhand, hlevels _ (by rw [Part.endScan_eq]; simpa using hactive)]
      rfl
  · rw [exec_cut_only hv h2 h3, Part.cutScan_none hscan]
  · have hstopped := Part.not_stopped_of_live (Part.live_of_writeValue hv)
    obtain ⟨-, -, -, -, hcut, -⟩ := Part.cutRows_inactive hactive hstopped hscan hhold
    refine ⟨_, exec_cut_only hv h2 h3, ?_⟩
    simp only [State.withPart, State.slotByte, State.byte, Part.refreshErase_frame, Part.refreshErase_slot, Nat.add_zero]
    exact hcut.outcome hwf

end Sys2Proof.Machine
end

section
/-! SUPPORT. The erase requests that stand after every act, and the lane arbiter's grants (R44, R59, R66 to R68). -/

namespace Sys2Proof.Machine

/-! ## The erase requests (R44) -/

/-- A segment is eligible by the segment table, the mount state, the inputs seen, the power state and the PRESENT lanes. -/
theorem Part.eligible_congr {p q : Part} (hsegs : q.segs = p.segs) (hmount : q.mount = p.mount) (hseen : q.seen = p.seen)
    (hpower : q.power = p.power) (hpresent : ∀ l, q.present l = p.present l) (a : SegAddr) (e : SegEntry) :
    q.eligible a e = p.eligible a e := by
  have hentries : q.entries = p.entries := by rw [Part.entries, hsegs]; rfl
  simp only [Part.eligible, Part.olderEraseWait, Part.mounted, Part.active, hentries, hmount, hseen, hpower, hpresent]

theorem Part.refreshLane_present (p : Part) (k l : Lane) : (p.refreshLane k).present l = p.present l := by
  have h := p.refreshLane_lane k l
  unfold LaneRec.sameButErase at h
  rw [Part.present, h]
  rfl

theorem Part.refreshLane_eligible (p : Part) (k : Lane) (a : SegAddr) (e : SegEntry) :
    (p.refreshLane k).eligible a e = p.eligible a e :=
  Part.eligible_congr (by simp) (by simp) (by simp) (by simp) (p.refreshLane_present k) a e

/-- The erase request of a lane once it has been brought up to date. -/
def Part.eraseAfter (p : Part) (l : Lane) : Option Request :=
  if p.eraseStands l then (p.lane l).waiting.erase
  else if (p.lane l).flier = some .erase then none
  else (p.eraseChoice l).map fun i => ⟨.eraseSegment i, false⟩

theorem Part.refreshLane_erase (p : Part) (l : Lane) : ((p.refreshLane l).lane l).waiting.erase = p.eraseAfter l := by
  unfold Part.refreshLane Part.eraseAfter
  split
  · rfl
  · split
    · split
      · next h => exact h
      · rw [Part.withdraw, Part.lane_setLane_same]
        rfl
    · cases p.eraseChoice l with
      | some i =>
        show ((p.place l .erase ⟨.eraseSegment i, false⟩).lane l).waiting.erase = _
        rw [Part.lane_place_same, LaneRec.request_waits _ (LaneRec.discards_never _ rfl)]
        rfl
      | none =>
        simp only
        split
        · next h => exact h
        · rw [Part.withdraw, Part.lane_setLane_same]
          rfl

theorem Part.refreshLane_other (p : Part) {l k : Lane} (h : k ≠ l) : (p.refreshLane l).lane k = p.lane k := by
  rcases p.refreshLane_cases l with hq | ⟨r, hq⟩ <;> rw [hq]
  exact Part.lane_setLane_other _ _ h

/-- Bringing another lane's request up to date leaves what a lane's own will be. -/
theorem Part.refreshLane_eraseAfter (p : Part) {l k : Lane} (h : k ≠ l) : (p.refreshLane l).eraseAfter k = p.eraseAfter k := by
  have hlane := p.refreshLane_other h
  have hsegs : (p.refreshLane l).segs = p.segs := by simp
  have hstands : (p.refreshLane l).eraseStands k = p.eraseStands k := by
    simp only [Part.eraseStands, hlane, Part.refreshLane_eligible, Part.seg, hsegs]
  have hchoice : (p.refreshLane l).eraseChoice k = p.eraseChoice k := by
    simp only [Part.eraseChoice, Part.refreshLane_eligible, hsegs]
  simp only [Part.eraseAfter, hstands, hchoice, hlane]

theorem Part.refreshErase_erase (p : Part) (l : Lane) : (p.refreshErase.lane l).waiting.erase = p.eraseAfter l := by
  have hlast : ∀ q : Part, ∀ k, k ≠ l → ((q.refreshLane k).lane l) = q.lane l := fun q k hk => q.refreshLane_other hk.symm
  have hfirst : ∀ q : Part, ∀ k, k ≠ l → (q.refreshLane k).eraseAfter l = q.eraseAfter l := fun q k hk =>
    q.refreshLane_eraseAfter hk.symm
  unfold Part.refreshErase
  fin_cases l
  · rw [hlast _ 3 (by decide), hlast _ 2 (by decide), hlast _ 1 (by decide)]
    exact p.refreshLane_erase 0
  · rw [hlast _ 3 (by decide), hlast _ 2 (by decide)]
    exact (Part.refreshLane_erase _ 1).trans (hfirst _ 0 (by decide))
  · rw [hlast _ 3 (by decide)]
    exact (Part.refreshLane_erase _ 2).trans ((hfirst _ 1 (by decide)).trans (hfirst _ 0 (by decide)))
  · exact (Part.refreshLane_erase _ 3).trans
      ((hfirst _ 2 (by decide)).trans ((hfirst _ 1 (by decide)).trans (hfirst _ 0 (by decide))))

/-- All but the erase requests stands as it was. -/
theorem Part.refreshErase_rest (p : Part) : { p.refreshErase with lanes := p.lanes } = p := by
  have hframe := p.refreshErase_frame
  generalize p.refreshErase = q at hframe
  obtain ⟨h1, h2, h3, h4, h5, h6, h7, h8, h9, h10, h11, h12, h13, h14, h15, h16, h17⟩ := hframe
  simp only [h1, h2, h3, h4, h5, h6, h7, h8, h9, h10, h11, h12, h13, h14, h15, h16, h17]

theorem Part.refreshErase_lane_rest (p : Part) (l : Lane) :
    { p.refreshErase.lane l with waiting.erase := (p.lane l).waiting.erase } = p.lane l := by
  have h := p.refreshErase_lane l
  unfold LaneRec.sameButErase at h
  rw [h]

theorem Part.eraseStands_iff (p : Part) (l : Lane) : p.eraseStands l = true ↔
    ∃ i c, (p.lane l).waiting.erase = some ⟨.eraseSegment i, c⟩ ∧ p.eligible ⟨l, i⟩ (p.seg ⟨l, i⟩) = true := by
  unfold Part.eraseStands
  split
  · next i c h =>
    rw [h]
    constructor
    · exact fun he => ⟨i, c, rfl, he⟩
    · rintro ⟨i', c', heq, he⟩
      obtain ⟨rfl, rfl⟩ : i = i' ∧ c = c' := by simpa using heq
      exact he
  · next h =>
    constructor
    · exact fun hf => absurd hf Bool.false_ne_true
    · rintro ⟨i, c, heq, -⟩
      exact absurd heq (h i c)

/-- The entry that stands for a missing segment is never eligible. -/
theorem Part.not_eligible_cleared (p : Part) (a : SegAddr) : p.eligible a (SegEntry.cleared .bad) = false := rfl

theorem addrsFrom_getElem? (l : Lane) (n : Nat) (es : List SegEntry) (i : Nat) :
    (addrsFrom l n es)[i]? = es[i]?.map fun e => (⟨l, n + i⟩, e) := by
  induction es generalizing n i with
  | nil => rfl
  | cons e rest ih =>
    cases i with
    | zero => rfl
    | succ i =>
      show (addrsFrom l (n + 1) rest)[i]? = _
      rw [ih, show n + 1 + i = n + (i + 1) by omega]
      rfl

/-- An eligible segment is one of its lane's. -/
theorem Part.entry_of_eligible {p : Part} {l : Lane} {i : Nat} (h : p.eligible ⟨l, i⟩ (p.seg ⟨l, i⟩) = true) :
    (p.segs.get l)[i]? = some (p.seg ⟨l, i⟩) := by
  cases hi : (p.segs.get l)[i]? with
  | some e =>
    simp only [Part.seg, List.getD_eq_getElem?_getD, hi, Option.getD_some]
  | none =>
    have hbad : p.seg ⟨l, i⟩ = SegEntry.cleared .bad := by simp only [Part.seg, List.getD_eq_getElem?_getD, hi, Option.getD_none]
    rw [hbad, Part.not_eligible_cleared] at h
    exact absurd h Bool.false_ne_true

/-- The segment chosen is the eligible one of lowest index (R44). -/
theorem Part.eraseChoice_some {p : Part} {l : Lane} {i : Nat} (h : p.eligible ⟨l, i⟩ (p.seg ⟨l, i⟩) = true)
    (hlow : ∀ j, j < i → p.eligible ⟨l, j⟩ (p.seg ⟨l, j⟩) = false) : p.eraseChoice l = some i := by
  have hentry := Part.entry_of_eligible h
  have hat : (addrsFrom l 0 (p.segs.get l))[i]? = some (⟨l, i⟩, p.seg ⟨l, i⟩) := by
    rw [addrsFrom_getElem?, hentry, Nat.zero_add]
    rfl
  obtain ⟨hlen, hget⟩ := List.getElem?_eq_some_iff.1 hat
  have hfind : (addrsFrom l 0 (p.segs.get l)).find? (fun x => p.eligible x.1 x.2) = some (⟨l, i⟩, p.seg ⟨l, i⟩) := by
    refine List.find?_eq_some_iff_getElem.2 ⟨h, i, hlen, hget, fun j hj => ?_⟩
    have hj' : (addrsFrom l 0 (p.segs.get l))[j]? = some (⟨l, j⟩, p.seg ⟨l, j⟩) := by
      have hjlen : j < (p.segs.get l).length := by rw [addrsFrom_length] at hlen; omega
      rw [addrsFrom_getElem?, Nat.zero_add]
      simp only [Part.seg, List.getD_eq_getElem?_getD, List.getElem?_eq_getElem hjlen, Option.map_some, Option.getD_some]
    obtain ⟨_, hjget⟩ := List.getElem?_eq_some_iff.1 hj'
    rw [hjget, hlow j hj]
    rfl
  rw [Part.eraseChoice, hfind]
  rfl

theorem Part.eraseChoice_none {p : Part} {l : Lane} (h : ∀ i, p.eligible ⟨l, i⟩ (p.seg ⟨l, i⟩) = false) :
    p.eraseChoice l = none := by
  rw [Part.eraseChoice, Option.map_eq_none_iff, List.find?_eq_none]
  rintro ⟨a, e⟩ hmem
  obtain ⟨hl, i, hi, he⟩ := mem_addrsFrom hmem
  obtain ⟨lane, seg⟩ := a
  obtain rfl : lane = l := hl
  obtain rfl : seg = i := by simpa using hi
  have hseg : p.seg ⟨lane, seg⟩ = e := by simp only [Part.seg, List.getD_eq_getElem?_getD, he, Option.getD_some]
  rw [← hseg, h seg]
  exact Bool.false_ne_true

theorem mem_addrsFrom_iff {l : Lane} {es : List SegEntry} {x : SegAddr × SegEntry} :
    x ∈ addrsFrom l 0 es ↔ x.1.lane = l ∧ es[x.1.seg]? = some x.2 := by
  constructor
  · intro h
    obtain ⟨hl, i, hi, he⟩ := mem_addrsFrom (a := x.1) (e := x.2) h
    exact ⟨hl, by rwa [hi, Nat.zero_add]⟩
  · rintro ⟨hl, he⟩
    have hat : (addrsFrom l 0 es)[x.1.seg]? = some x := by
      rw [addrsFrom_getElem?, he, Nat.zero_add]
      obtain ⟨⟨lane, seg⟩, e⟩ := x
      obtain rfl : lane = l := hl
      rfl
    exact List.mem_of_getElem? hat

/-- The entries of the segment table (R35). -/
theorem Part.mem_entries_iff {p : Part} {x : SegAddr × SegEntry} : x ∈ p.entries ↔ (p.segs.get x.1.lane)[x.1.seg]? = some x.2 := by
  simp only [Part.entries, List.mem_append, mem_addrsFrom_iff]
  obtain ⟨⟨lane, seg⟩, e⟩ := x
  fin_cases lane <;> simp [Quad.get]

/-- A listed entry is the one its address has. -/
theorem Part.seg_of_mem {p : Part} {x : SegAddr × SegEntry} (h : x ∈ p.entries) : p.seg x.1 = x.2 := by
  rw [Part.mem_entries_iff] at h
  simp only [Part.seg, List.getD_eq_getElem?_getD, h, Option.getD_some]

/-- With no erase in flight on the lane, an erase request stands exactly while a segment of the lane is eligible (R44). -/
theorem Part.eraseAfter_ne_none_iff {p : Part} {l : Lane} (hflier : (p.lane l).flier ≠ some .erase) :
    p.eraseAfter l ≠ none ↔ ∃ x ∈ p.entries, x.1.lane = l ∧ p.eligible x.1 x.2 = true := by
  have hsome : (∃ i, p.eligible ⟨l, i⟩ (p.seg ⟨l, i⟩) = true) ↔ ∃ x ∈ p.entries, x.1.lane = l ∧ p.eligible x.1 x.2 = true := by
    constructor
    · rintro ⟨i, hi⟩
      exact ⟨(⟨l, i⟩, p.seg ⟨l, i⟩), Part.mem_entries_iff.2 (Part.entry_of_eligible hi), rfl, hi⟩
    · rintro ⟨⟨⟨lane, i⟩, e⟩, hmem, rfl, he⟩
      exact ⟨i, by rwa [Part.seg_of_mem hmem]⟩
  rw [← hsome, Part.eraseAfter]
  split
  · next hstands =>
    obtain ⟨i, c, hw, he⟩ := (p.eraseStands_iff l).1 hstands
    rw [hw]
    exact ⟨fun _ => ⟨i, he⟩, fun _ => by simp⟩
  · by_cases hex : ∃ i, p.eligible ⟨l, i⟩ (p.seg ⟨l, i⟩) = true
    · obtain ⟨i, hi⟩ := hex
      classical
      have hlow := Nat.find_spec (p := fun i => p.eligible ⟨l, i⟩ (p.seg ⟨l, i⟩) = true) ⟨i, hi⟩
      rw [Part.eraseChoice_some hlow fun j hj => by simpa using Nat.find_min (p := fun i => p.eligible ⟨l, i⟩ (p.seg ⟨l, i⟩) = true) ⟨i, hi⟩ hj]
      exact ⟨fun _ => ⟨i, hi⟩, fun _ => by simp⟩
    · rw [Part.eraseChoice_none fun i => by simpa using fun hi => hex ⟨i, hi⟩]
      exact ⟨fun h => absurd rfl h, fun h => absurd h hex⟩

/-- A segment is eligible for an erase request (R38, R44). -/
theorem Part.eligible_iff (p : Part) (a : SegAddr) (e : SegEntry) : p.eligible a e = true ↔
    (e.state = .eraseWait ∨ (e.state = .unswept ∧ p.mounted = true)) ∧ e.readers = 0
      ∧ p.seen.winh = false ∧ p.power.state = .active ∧ p.present a.lane = true
      ∧ (e.state = .eraseWait → e.epoch ≠ 0 → ∀ x ∈ p.entries, x.1 ≠ a → x.2.state = .eraseWait → x.2.epoch ≠ 0 →
          x.2.epoch < e.epoch → p.present x.1.lane = false) := by
  have holder : p.olderEraseWait a e.epoch = false ↔ ∀ x ∈ p.entries, x.1 ≠ a → x.2.state = .eraseWait → x.2.epoch ≠ 0 →
      x.2.epoch < e.epoch → p.present x.1.lane = false := by
    simp [Part.olderEraseWait, List.any_eq_false]
  have hlast : (e.state == .eraseWait && e.epoch != 0 && p.olderEraseWait a e.epoch) = false ↔
      (e.state = .eraseWait → e.epoch ≠ 0 → p.olderEraseWait a e.epoch = false) := by
    cases p.olderEraseWait a e.epoch <;> simp
  rw [← holder, ← hlast]
  simp only [Part.eligible, Bool.and_eq_true, Bool.or_eq_true, beq_iff_eq, Bool.not_eq_true', Part.active_iff, and_assoc]

/-! ## The store link (R59) -/

theorem frameBits_cons (b : Byte) (rest : List Byte) : frameBits (b :: rest) =
    [b.getLsbD 7, b.getLsbD 6, b.getLsbD 5, b.getLsbD 4, b.getLsbD 3, b.getLsbD 2, b.getLsbD 1, b.getLsbD 0] ++ frameBits rest := rfl

/-- The fixed cycle of requesters (R66). -/
def requesterCycle : List Requester := [.mount, .record, .scan, .reclaim, .head, .erase]

/-- A requester's place in the cycle. -/
def Requester.place : Requester → Nat
  | .mount => 0
  | .record => 1
  | .scan => 2
  | .reclaim => 3
  | .head => 4
  | .erase => 5

/-- The search after a requester runs through the cycle and comes to it last. -/
theorem Requester.after_eq (rq : Requester) : rq.place < 6 ∧ requesterCycle[rq.place]? = some rq
    ∧ rq.after = requesterCycle.drop (rq.place + 1) ++ requesterCycle.take (rq.place + 1) := by
  cases rq <;> decide

theorem Requester.mem_after (rq other : Requester) : other ∈ rq.after := by cases rq <;> cases other <;> decide

/-! ## Grants (R66) -/

/-- A search answers the first element that has an answer. -/
theorem findSome?_first {α β : Type} [DecidableEq α] {f : α → Option β} {xs : List α} {x : α} {b : β} (hx : x ∈ xs)
    (hb : f x = some b) (hbefore : ∀ k, k < xs.idxOf x → ∀ y, xs[k]? = some y → f y = none) : xs.findSome? f = some b := by
  induction xs with
  | nil => simp at hx
  | cons y rest ih =>
    by_cases hy : y = x
    · subst hy
      simp [hb]
    · have hidx : (y :: rest).idxOf x = rest.idxOf x + 1 := List.idxOf_cons_ne _ hy
      have hnone : f y = none := hbefore 0 (by omega) y rfl
      have hmem : x ∈ rest := (List.mem_cons.1 hx).resolve_left (Ne.symm hy)
      rw [List.findSome?_cons, hnone]
      exact ih hmem fun k hk z hz => hbefore (k + 1) (by omega) z hz

/-- The requester granted is the first in the cycle with a grantable request (R66). -/
theorem Part.nextGrant_eq {p : Part} {l : Lane} {rq : Requester} {r : Request} (hw : (p.lane l).waiting.get rq = some r)
    (hg : p.grantable rq r = true)
    (hbefore : ∀ k, k < ((p.lane l).lastGranted.after).idxOf rq → ∀ other r',
      ((p.lane l).lastGranted.after)[k]? = some other → (p.lane l).waiting.get other = some r' → p.grantable other r' = false) :
    p.nextGrant l = some (rq, r) := by
  refine findSome?_first (Requester.mem_after _ rq) ?_ fun k hk other hother => ?_
  · simp [Part.grantableOf, hw, hg]
  · simp only [Part.grantableOf]
    cases hr : (p.lane l).waiting.get other with
    | none => rfl
    | some r' =>
      have hno := hbefore k hk other r' hother hr
      simp [hno]

theorem exec_laneGrant {s : State} (l : Lane) (h : s.part.live = true) :
    exec (.laneGrant l) s = .next (s.withPart (s.part.grantLane l).refreshErase) := run_act_live h

theorem Part.grantLane_issues {p : Part} {l : Lane} {rq : Requester} {r : Request} (hidle : (p.lane l).inFlight = none)
    (hnext : p.nextGrant l = some (rq, r)) : p.grantLane l = p.issue l rq r := by
  simp [Part.grantLane, hidle, hnext]

/-- What issuing an operation changes: its lane's record, the notice of quiet, and a granted erase's segment. -/
theorem Part.issue_frame (p : Part) (l : Lane) (rq : Requester) (r : Request) :
    (p.issue l rq r).lanes = p.lanes.set l ((p.lane l).grant rq r)
    ∧ (∀ i, r.op = .eraseSegment i →
        (p.issue l rq r).segs = (p.modSeg ⟨l, i⟩ fun e => { e with state := .erasing, epoch := 0 }).segs)
    ∧ ((∀ i, r.op ≠ .eraseSegment i) → (p.issue l rq r).segs = p.segs)
    ∧ { p.issue l rq r with lanes := p.lanes, segs := p.segs, power.quietSeen := p.power.quietSeen } = p := by
  unfold Part.issue Part.eraseGranted
  cases hop : r.op with
  | eraseSegment i => exact ⟨rfl, fun j hj => by cases hj; rfl, fun hno => absurd rfl (hno i), rfl⟩
  | identify => exact ⟨rfl, fun j hj => (by cases hj), fun _ => rfl, rfl⟩
  | readLine _ _ => exact ⟨rfl, fun j hj => (by cases hj), fun _ => rfl, rfl⟩
  | programLine _ _ _ => exact ⟨rfl, fun j hj => (by cases hj), fun _ => rfl, rfl⟩

theorem Part.active_eq_decide (p : Part) : p.active = decide (p.power.state = .active) := by
  rw [Bool.eq_iff_iff, Part.active_iff, decide_eq_true_eq]

/-- The table of R67. -/
theorem Part.grantable_table (p : Part) (r : Request) : p.grantable .mount r = true
    ∧ (∀ rq ∈ [Requester.record, .scan, .reclaim], p.grantable rq r = decide (p.power.state = .active))
    ∧ (r.continuing = true → p.grantable .head r = true)
    ∧ (r.continuing = false → p.grantable .head r = (decide (p.power.state = .active) && !p.seen.winh))
    ∧ p.grantable .erase r = (decide (p.power.state = .active) && !p.seen.winh) := by
  rw [← Part.active_eq_decide]
  refine ⟨rfl, fun rq hrq => ?_, fun hc => by rw [Part.grantable, hc, Bool.true_or],
    fun hc => by rw [Part.grantable, hc, Bool.false_or], rfl⟩
  cases rq with
  | record | scan | reclaim => rfl
  | mount | head | erase => simp at hrq

/-- Settles O32. -/
theorem laneGrantIssues : Obligations.LaneGrantIssues := by
  refine ⟨⟨fun seg line bytes _ _ => ⟨rfl, rfl, rfl, rfl⟩, frameBits_cons, fun p r => p.grantable_table r, ?_⟩,
    fun s l rq r hlive hidle hw hg hbefore => ?_, fun p l => ?_, fun p a e => p.eligible_iff a e⟩
  · intro cycle rq
    exact ⟨rq.place, rq.after_eq⟩
  · have hissue := Part.grantLane_issues hidle (Part.nextGrant_eq hw hg hbefore)
    obtain ⟨hlanes, herase, hother, hrest⟩ := s.part.issue_frame l rq r
    generalize s.part.issue l rq r = q at hissue hlanes herase hother hrest
    have hlane : q.lane l = (s.part.lane l).grant rq r := by rw [Part.lane, hlanes, Quad.get_set_same]
    have hlaneOther : ∀ k, k ≠ l → q.lane k = s.part.lane k := fun k hk => by
      rw [Part.lane, hlanes, Quad.get_set_other _ _ hk]
      rfl
    refine ⟨_, by rw [exec_laneGrant l hlive, hissue], ?_⟩
    have hwaiting := fun other (h : other ≠ Requester.erase) => q.refreshErase_waiting l h
    simp only [State.withPart, Part.refreshErase_frame, Part.refreshErase_lane_fields, hlane]
    refine ⟨rfl, rfl, fun hrq => ?_, rfl, rfl, rfl, rfl, fun other hne hother => ?_, fun k hk => ?_, herase, hother, ?_, rfl,
      fun _ _ => rfl, fun _ _ _ => rfl, fun _ => rfl⟩
    · rw [hwaiting rq hrq, hlane]
      exact Waiting.get_set_same _ _ _
    · rw [hwaiting other hother, hlane]
      exact Waiting.get_set_other _ _ hne
    · rw [hlaneOther k hk]
    · exact hrest
  · intro stands after
    have hafter : after = p.eraseAfter l := p.refreshErase_erase l
    have hstands : stands ↔ p.eraseStands l = true := (p.eraseStands_iff l).symm
    rw [hstands, hafter]
    refine ⟨p.refreshErase_rest, p.refreshErase_lane_rest l, fun h => if_pos h, fun h hf => ?_, fun h hf => ⟨fun i hi hlow => ?_,
      fun hnone => ?_⟩, fun hf => Part.eraseAfter_ne_none_iff hf⟩
    · rw [Part.eraseAfter, if_neg h, if_pos hf]
    · rw [Part.eraseAfter, if_neg h, if_neg hf, Part.eraseChoice_some hi hlow]
      rfl
    · rw [Part.eraseAfter, if_neg h, if_neg hf, Part.eraseChoice_none hnone]
      rfl

end Sys2Proof.Machine
end

section
/-! SUPPORT. What an append's setting back does, what a program's end does to an append that is to be set back, and WINH's effect on
erase requests and grants (R44, R67, R135). -/

namespace Sys2Proof.Machine

/-! ## Programs' ends (R63) -/

theorem exec_programLineEnd {s : State} {l : Lane} {status : Byte} {rq : Requester} {i n ms : Nat} {b : List Byte} {disc : Bool}
    (hlive : s.part.live = true) (hflight : (s.part.lane l).inFlight = some ⟨rq, .programLine i n b, ms, disc⟩) :
    exec (.programLineEnd l status) s = .next (s.withPart
      ((s.part.landed l).programEnds (if status = 0 then .pass else .fail)).refreshErase) := by
  show run _ s = _
  rw [run_act_live hlive]
  simp only [Part.programLineEnds, hflight, passStatus, beq_iff_eq]

theorem Part.landed_frame (p : Part) (l : Lane) : { p.landed l with lanes := p.lanes } = p := rfl

theorem Part.programEnds_opening (p : Part) {a : Append} {sg : SegAddr} (o : ProgEnd) (ha : p.head.append = some a)
    (hstep : a.step = .opening sg) : p.programEnds o = p.openEnds sg o a := by
  simp [Part.programEnds, ha, hstep]

theorem Part.programEnds_closing (p : Part) {a : Append} {sg : SegAddr} {cause : CloseCause} (o : ProgEnd)
    (ha : p.head.append = some a) (hstep : a.step = .closing sg cause) : p.programEnds o = p.closeEnds sg cause o a := by
  simp [Part.programEnds, ha, hstep]

theorem Part.programEnds_programming (p : Part) {a : Append} {sg : SegAddr} {first : Nat} (o : ProgEnd)
    (ha : p.head.append = some a) (hstep : a.step = .programming sg first) : p.programEnds o = p.lineEnds sg first o a := by
  simp [Part.programEnds, ha, hstep]

theorem Part.openEnds_lost (p : Part) (sg : SegAddr) {o : ProgEnd} (a : Append) (h : o ≠ .pass) : p.openEnds sg o a =
    (p.modSeg sg fun e => { e with state := .eraseWait, retire := true }).onward a := by
  cases o with
  | pass => exact absurd rfl h
  | fail => rfl
  | laneOffline => rfl
  | laneTimeout => rfl

theorem Part.onward_setBack (p : Part) {a : Append} {cause : SetBack} (h : a.setBack = some cause) :
    p.onward a = p.setBackNow cause a := by
  simp [Part.onward, h]

theorem Part.onward_opens (p : Part) {a : Append} (h : a.setBack = none) : p.onward a = p.openSegment a := by
  simp [Part.onward, h]

/-- The release signal finds a unit that is not STALLED with nothing to do (R151). -/
theorem Part.release_not_stalled {p : Part} (h : p.reclaim.state ≠ .stalled) : p.release = p := by
  unfold Part.release
  split
  · next hstate => exact absurd hstate h
  all_goals rfl

theorem Part.releaseIfClosed_not_stalled {p : Part} (a : SegAddr) (h : p.reclaim.state ≠ .stalled) : p.releaseIfClosed a = p := by
  unfold Part.releaseIfClosed
  split
  · exact Part.release_not_stalled h
  · rfl

/-- The segment entry after the trailer's program, by its status (R41, R54, R129). -/
theorem SegEntry.closedBy_status (cause : CloseCause) (status : Byte) :
    SegEntry.closedBy cause (if status = 0 then .pass else .fail) = fun e => { e with
      state := .closed, trailered := decide (status = 0),
      retire := e.retire || decide (cause ≠ .noRoom) || decide (status ≠ 0) } := by
  funext e
  by_cases h : status = 0
  · simp only [h, if_true, SegEntry.closedBy]
    cases cause <;> cases e.retire <;> rfl
  · simp only [h, if_false, SegEntry.closedBy, ne_eq, not_false_eq_true, decide_true, decide_false]
    cases cause <;> cases e.retire <;> rfl

/-! ## Setting back (R135) -/

theorem Part.requestSetBack_started (p : Part) {a : Append} (ha : p.head.append = some a) (h : a.started = true)
    (cause : SetBack) : p.requestSetBack cause = p := by
  simp [Part.requestSetBack, ha, h]

/-- With a record line's program in flight nothing is set back. -/
theorem Part.requestSetBack_programming (p : Part) {a : Append} {sg : SegAddr} {first : Nat} (ha : p.head.append = some a)
    (hstep : a.step = .programming sg first) (hfly : (p.lane sg.lane).flier = some .head) (cause : SetBack) :
    p.requestSetBack cause = p := by
  simp only [Part.requestSetBack, ha, hstep, AppendStep.seg, hfly, if_true, ite_self]

/-- With a trailer's or header's program in flight the append is noted to be set back. -/
theorem Part.requestSetBack_noted (p : Part) {a : Append} {sg : SegAddr} (ha : p.head.append = some a)
    (hstarted : a.started = false) (hstep : a.step = .opening sg ∨ ∃ cause, a.step = .closing sg cause)
    (hfly : (p.lane sg.lane).flier = some .head) (cause : SetBack) :
    p.requestSetBack cause = p.setAppend (a.noteSetBack cause) := by
  rcases hstep with hstep | ⟨_, hstep⟩
  all_goals simp only [Part.requestSetBack, ha, hstarted, hstep, AppendStep.seg, hfly, if_true, if_false, Bool.false_eq_true]

/-- WINH prevails over the power state (log 16). -/
theorem Append.noteSetBack_eq (a : Append) (cause : SetBack) :
    a.noteSetBack cause = { a with setBack := some (if a.setBack = some .winh then .winh else cause) } := by
  unfold Append.noteSetBack
  split
  · next h =>
    rw [if_pos h]
    exact (congrArg (fun b => ({ a with setBack := b } : Append)) h :)
  · next h => rw [if_neg (by exact h)]

/-- With the append's request waiting: it is withdrawn, and the append leaves progress at once. -/
theorem Part.requestSetBack_waiting (p : Part) {a : Append} {sg : SegAddr} (ha : p.head.append = some a)
    (hstarted : a.started = false) (hseg : a.step.seg = some sg) (hfly : (p.lane sg.lane).flier ≠ some .head) (cause : SetBack) :
    p.requestSetBack cause = (p.withdrawStarting sg a.step).setBackNow cause a := by
  simp only [Part.requestSetBack, ha, hstarted, hseg, hfly, if_false, Bool.false_eq_true]

theorem Part.withdrawStarting_eq (p : Part) {step : AppendStep} {sg : SegAddr} (hseg : step.seg = some sg) :
    p.withdrawStarting sg step = if step = .opening sg then
        ((p.withdraw sg.lane .head).modSeg sg fun _ => ⟨.free, 0, 0, 0, 1, false, 0, false⟩).afterRise
      else p.withdraw sg.lane .head := by
  cases step with
  | placing => rfl
  | closing s cause => rfl
  | opening s =>
    obtain rfl : s = sg := Option.some.inj hseg
    rw [if_pos rfl]
    rfl
  | programming s first => rfl

theorem Part.setBackNow_order_winh (p : Part) {a : Append} {r : OrderReq} (h : a.work = .order r) : p.setBackNow .winh a =
    Part.finishRecord { faultResult .writeInhibited with retried := a.repeated, sequence := a.sequence }
      { p with head.append := none } := by
  simp only [Part.setBackNow, Part.endAppend, h]
  rfl

theorem Part.setBackNow_order_power (p : Part) {a : Append} {r : OrderReq} (h : a.work = .order r) : p.setBackNow .power a =
    { p with head.append := none, head.orderReq := some { r with sequence := some a.sequence, waitingRoom := false } } := by
  simp only [Part.setBackNow, h]

theorem Part.setBackNow_copy (p : Part) {a : Append} {c : CopyReq} (cause : SetBack) (h : a.work = .copy c) :
    p.setBackNow cause a = if p.reclaim.suspended then { p with head.append := none }
      else { p with head.append := none, head.copyReq := some c } := by
  simp only [Part.setBackNow, h]

theorem Part.inside_afterRise (p : Part) : p.Inside p.afterRise := by
  simp only [Part.afterRise]
  split
  · exact (Part.inside_submitCopy _).after rfl
  · exact .of_outside rfl

theorem Part.inside_withdrawStarting (p : Part) (sg : SegAddr) (step : AppendStep) : p.Inside (p.withdrawStarting sg step) := by
  have hwithdraw := p.inside_withdraw sg.lane .head
  cases step with
  | opening s => exact (hwithdraw.trans (Part.inside_modSeg _ _ _)).trans (Part.inside_afterRise _)
  | placing => exact hwithdraw
  | closing s cause => exact hwithdraw
  | programming s first => exact hwithdraw

theorem Part.inside_requestSetBack (p : Part) (cause : SetBack) : p.Inside (p.requestSetBack cause) := by
  unfold Part.requestSetBack
  split
  · exact .refl p
  · next a _ =>
    split
    · exact .refl p
    · split
      · exact .refl p
      · next sg _ =>
        split
        · split
          · exact .refl p
          all_goals exact .of_outside rfl
        · exact (p.inside_withdrawStarting sg a.step).trans (Part.inside_setBackNow _ _ _)

/-! ## WINH (R44, R67) -/

theorem Part.not_eligible_of_winh {p : Part} (h : p.seen.winh = true) (a : SegAddr) (e : SegEntry) : p.eligible a e = false := by
  simp [Part.eligible, h]

/-- Where no segment is eligible no erase request waits after an act. -/
theorem Part.eraseAfter_none {p : Part} (l : Lane) (h : ∀ a e, p.eligible a e = false) : p.eraseAfter l = none := by
  have hstands : p.eraseStands l = false := Bool.eq_false_iff.2 fun hs => by
    obtain ⟨i, _, _, he⟩ := (p.eraseStands_iff l).1 hs
    rw [h] at he
    exact Bool.noConfusion he
  simp only [Part.eraseAfter, hstands, Part.eraseChoice_none fun i => h _ _, Option.map_none, ite_self, if_false,
    Bool.false_eq_true]

theorem exec_winhAssert {s : State} (h : s.part.live = true) : exec .winhAssert s
    = .next (s.withPart (Part.seeWinh true { s.part with pins.winh := true }).refreshErase) := run_pinEvent_live h

theorem exec_winhDeassert {s : State} (h : s.part.live = true) : exec .winhDeassert s
    = .next (s.withPart (Part.seeWinh false { s.part with pins.winh := false }).refreshErase) := run_pinEvent_live h

/-- WINH seen asserted: set back at a rise alone, and by an append in progress alone. -/
theorem Part.seeWinh_asserted (p : Part) : p.seeWinh true =
    if p.seen.winh = true ∨ p.head.append = none then { p with seen.winh := true }
    else Part.requestSetBack .winh { p with seen.winh := true } := by
  cases hseen : p.seen.winh with
  | true => simp [Part.seeWinh, hseen]
  | false =>
    simp only [Part.seeWinh, hseen, Bool.not_false, Bool.and_self, if_true, Bool.false_eq_true, false_or]
    split
    · next ha => exact Part.requestSetBack_idle (p := { p with seen.winh := true }) ha _
    · rfl

theorem Part.seeWinh_seen (p : Part) : (p.seeWinh true).seen.winh = true := by
  rw [Part.seeWinh_asserted]
  split
  · rfl
  · exact congrArg Inputs.winh (Part.inside_requestSetBack _ _).seen

/-- While WINH is asserted no erase request waits, and of the head writer's programs the continuing ones are grantable. -/
theorem Part.winh_holds {p : Part} (h : p.seen.winh = true) : (∀ l, (p.refreshErase.lane l).waiting.erase = none)
    ∧ ∀ r : Request, p.refreshErase.grantable .head r = r.continuing :=
  ⟨fun l => by rw [Part.refreshErase_erase, Part.eraseAfter_none l (Part.not_eligible_of_winh h)],
    fun r => by simp [Part.grantable, h]⟩

/-! ## The end of a program whose append is to be set back (R40, R41, R135) -/

theorem Part.openEnds_setBack_pass (p : Part) {a : Append} {sb : SetBack} (sg : SegAddr) (hsb : a.setBack = some sb) :
    p.openEnds sg .pass a = Part.setBackNow sb a (Part.wakeRoom
      { p.modSeg sg (fun e => { e with state := .head, used := 0, goodEnd := 1, claimed := 0, trailered := false })
        with head.recordsInHead := 0 }) := by
  simp only [Part.openEnds, hsb]

/-- The entry and the signal once a trailer's program has ended (R41, R52, R129). -/
def Part.closeTold (sg : SegAddr) (cause : CloseCause) (status : Byte) (p : Part) : Part :=
  let closed : Part := { p.modSeg sg (fun e => { e with
      state := .closed, trailered := decide (status = 0),
      retire := e.retire || decide (cause ≠ .noRoom) || decide (status ≠ 0) }) with head.recordsInHead := 0 }
  if (p.seg sg).state = .head then closed.releaseIfClosed sg else closed

theorem Part.closeEnds_status (p : Part) (sg : SegAddr) (cause : CloseCause) (status : Byte) (a : Append) :
    p.closeEnds sg cause (if status = 0 then .pass else .fail) a =
      if cause = .secondFailure then (p.closeTold sg cause status).endAppend .programFault a
      else (p.closeTold sg cause status).onward a := by
  simp only [Part.closeEnds, SegEntry.closedBy_status]
  cases cause <;> rfl

/-- A close for lack of room tells nobody while reclaim is not STALLED. -/
theorem Part.closeTold_noRoom (p : Part) (sg : SegAddr) (status : Byte) (h : p.reclaim.state ≠ .stalled) :
    p.closeTold sg .noRoom status = { p.modSeg sg (fun e => { e with
      state := .closed, trailered := decide (status = 0), retire := e.retire || decide (status ≠ 0) })
      with head.recordsInHead := 0 } := by
  simp only [Part.closeTold, ne_eq, not_true_eq_false, decide_false, Bool.or_false]
  split
  · exact Part.releaseIfClosed_not_stalled _ h
  · rfl

/-- Settles O28. -/
theorem winhHoldsPrograms : Obligations.WinhHoldsPrograms := by
  unfold Obligations.WinhHoldsPrograms
  refine ⟨fun s hlive => ?_, fun p => ⟨p.refreshErase_rest, p.refreshErase_lane_rest⟩, fun p a ha => ?_, fun p a => ?_,
    fun s l status rq i n ms b disc a sg sb hlive hflight ha hsb => ?_⟩
  · intro q u
    rw [exec_winhAssert hlive, exec_winhDeassert hlive]
    refine ⟨fun h => ?_, fun h => ?_, ⟨_, rfl, Part.winh_holds (Part.seeWinh_seen _)⟩, rfl, fun h r => ?_, fun h => ?_⟩
    · rw [Part.seeWinh_asserted, if_pos (by exact h)]
    · simp only [Part.seeWinh, h]
      rfl
    · simp [Part.grantable, Part.active, h, u]
    · rw [exec_pwarnAssert hlive]
      simp only [Part.seePwarn, h]
      rfl
  · refine ⟨p.requestSetBack_started ha, fun cause sg first hstep hfly => p.requestSetBack_programming ha hstep hfly cause,
      fun sg hstarted hstep hfly => ?_, fun cause sg hstarted hseg hfly => ?_⟩
    · rw [p.requestSetBack_noted ha hstarted hstep hfly, p.requestSetBack_noted ha hstarted hstep hfly, Append.noteSetBack_eq,
        Append.noteSetBack_eq, ite_self]
      exact ⟨rfl, rfl⟩
    · rw [p.requestSetBack_waiting ha hstarted hseg hfly, Part.withdrawStarting_eq p hseg]
  · exact ⟨fun r h => ⟨p.setBackNow_order_winh h, p.setBackNow_order_power h⟩, fun c cause h => p.setBackNow_copy cause h⟩
  · have happend : (s.part.landed l).head.append = some a := ha
    rw [exec_programLineEnd hlive hflight]
    refine ⟨fun hstep hpass => ?_, fun hstep hfail => ?_, fun cause hstep => ?_, fun hstep hstalled => ?_⟩
    · rw [if_pos hpass, Part.programEnds_opening _ _ happend hstep, Part.openEnds_setBack_pass _ _ hsb]
    · rw [if_neg hfail, Part.programEnds_opening _ _ happend hstep, Part.openEnds_lost _ _ _ (by simp),
        Part.onward_setBack _ hsb]
    · rw [Part.programEnds_closing _ _ happend hstep, Part.closeEnds_status, Part.onward_setBack _ hsb]
      rfl
    · rw [Part.programEnds_closing _ _ happend hstep, Part.closeEnds_status, if_neg (by simp), Part.onward_setBack _ hsb,
        Part.closeTold_noRoom (s.part.landed l) _ _ hstalled]

end Sys2Proof.Machine
end

section
/-! SUPPORT. STORE_GOOD's rise, the start of mount (R165, R166, R183), and the loss of lanes (R58, R69 to R71). -/

namespace Sys2Proof.Machine

/-! ## The mount engine's requests on a lane -/

/-- What the mount engine asks of a lane depends on that lane, the mount state and the power state alone. -/
theorem Part.placeMount_lane_congr {p q : Part} {l : Lane} (hmount : q.mount = p.mount) (hpower : q.power = p.power)
    (hlane : q.lane l = p.lane l) : (q.placeMount l).lane l = (p.placeMount l).lane l := by
  have hop : q.mountOp l = p.mountOp l := by
    simp only [Part.mountOp, Part.present, hmount, hlane]
    rfl
  simp only [Part.placeMount, hop, hpower, hlane]
  cases p.mountOp l with
  | none => exact hlane
  | some op =>
    simp only
    split
    · exact hlane
    · rw [Part.lane_place_same, Part.lane_place_same, hlane]

theorem Part.placeMount_other (p : Part) {l k : Lane} (h : k ≠ l) : (p.placeMount l).lane k = p.lane k := by
  unfold Part.placeMount
  split
  · rfl
  · split
    · rfl
    · exact Part.lane_place_other _ _ _ h

theorem Part.placeMountAll_lane (p : Part) (l : Lane) : p.placeMountAll.lane l = (p.placeMount l).lane l := by
  have hlast : ∀ (q : Part) (k : Lane), k ≠ l → (q.placeMount k).lane l = q.lane l := fun q k hk => q.placeMount_other hk.symm
  have hfirst : ∀ (q : Part) (k : Lane), k ≠ l → ((q.placeMount k).placeMount l).lane l = (q.placeMount l).lane l :=
    fun q k hk => Part.placeMount_lane_congr (by simp) (by simp) (hlast q k hk)
  unfold Part.placeMountAll
  fin_cases l
  · exact (hlast _ 3 (by decide)).trans ((hlast _ 2 (by decide)).trans (hlast _ 1 (by decide)))
  · exact (hlast _ 3 (by decide)).trans ((hlast _ 2 (by decide)).trans (hfirst _ 0 (by decide)))
  · exact (hlast _ 3 (by decide)).trans ((hfirst _ 1 (by decide)).trans (hfirst _ 0 (by decide)))
  · exact (hfirst _ 2 (by decide)).trans ((hfirst _ 1 (by decide)).trans (hfirst _ 0 (by decide)))

theorem Part.placeMount_flight (p : Part) (l : Lane) : ((p.placeMount l).lane l).inFlight = (p.lane l).inFlight := by
  unfold Part.placeMount
  split
  · rfl
  · split
    · rfl
    · rw [Part.lane_place_same]
      exact (LaneRec.request_fields _ _ _).2.2.1

/-- A lane with neither a request of the mount engine's waiting nor one in flight takes the next, outside PARK. -/
theorem Part.placeMount_asks {p : Part} {l : Lane} {op : StoreOp} (hop : p.mountOp l = some op) (hpark : p.power.state ≠ .park)
    (hstopped : p.power.state ≠ .stopped) (hwaiting : (p.lane l).waiting.mount = none) (hflier : (p.lane l).flier ≠ some .mount) :
    p.placeMount l = p.place l .mount ⟨op, false⟩ := by
  simp [Part.placeMount, hop, hpark, hstopped, hwaiting, hflier]

/-! ## STORE_GOOD rises (R165, R183) -/

theorem exec_storeGoodRise {s : State} (h : s.part.live = true) : exec .storeGoodRise s
    = .next (s.withPart (Part.seeStoreGood true { s.part with pins.storeGood := true }).refreshErase) := run_pinEvent_live h

theorem exec_storeGoodFall {s : State} (h : s.part.live = true) : exec .storeGoodFall s
    = .next (s.withPart (Part.seeStoreGood false { s.part with pins.storeGood := false }).refreshErase) := run_pinEvent_live h

theorem exec_storeGoodSettled {s : State} (h : s.part.live = true) : exec .storeGoodSettled s
    = .next (s.withPart (if s.part.mount.settle then s.part.startMount else s.part).refreshErase) := run_act_live h

theorem Part.seeStoreGood_rise {p : Part} (h : p.seen.storeGood = false) : p.seeStoreGood true = { p with
    seen.storeGood := true, power.wake := p.power.wake.map fun _ => ⟨true⟩, mount.settle := p.mountMaySettle } := by
  simp only [Part.seeStoreGood, h, Bool.true_eq_false, Bool.not_true, Bool.false_and, if_false, Bool.false_eq_true]
  rfl

/-- STORE_GOOD's fall stops both settle counts; outside PARK the store supply is lost too (R70, R165, R183). -/
theorem Part.seeStoreGood_fall {p : Part} (h : p.seen.storeGood = true) : p.seeStoreGood false =
    let u : Part := { p with
      seen.storeGood := false, power.wake := p.power.wake.map fun _ => ⟨false⟩, mount.settle := false }
    if p.power.state = .park ∨ p.power.state = .stopped then u else u.supplyFalls := by
  by_cases hout : p.power.state = .park ∨ p.power.state = .stopped
  · have hb : (p.power.state != .park && p.power.state != .stopped) = false := by rcases hout with h | h <;> simp [h]
    simp only [Part.seeStoreGood, h, Bool.false_eq_true, if_false, Bool.not_false, Bool.true_and, hb, if_pos hout]
    rfl
  · have hb : (p.power.state != .park && p.power.state != .stopped) = true := by simpa [not_or] using hout
    simp only [Part.seeStoreGood, h, Bool.false_eq_true, if_false, Bool.not_false, Bool.true_and, hb, if_neg hout, if_true]
    rfl

theorem Part.mountMaySettle_iff (p : Part) : p.mountMaySettle = true ↔
    p.mount.state = .waiting ∧ p.zeroing = false ∧ p.power.state ≠ .park ∧ p.power.state ≠ .stopped := by
  simp [Part.mountMaySettle, and_assoc]

/-- IDENTIFY is asked of every lane that stands as the full reset leaves it (R166). -/
theorem Part.startMount_identifies {p : Part} (hpark : p.power.state ≠ .park) (hstopped : p.power.state ≠ .stopped)
    (hlanes : ∀ l, p.lane l = LaneRec.reset) (hmount : p.mount.lanes = Mount.reset.lanes) (l : Lane) :
    (p.startMount.lane l).waiting.mount = some ⟨.identify, false⟩ := by
  let q : Part := { p with mount.state := .mounting, mount.step := .identify, mount.settle := false }
  have hlane : q.lane l = LaneRec.reset := hlanes l
  have hended : (q.mount.lanes.get l).identEnded = false := by
    rw [show q.mount.lanes = Mount.reset.lanes from hmount]
    fin_cases l <;> rfl
  have hop : q.mountOp l = some .identify := by
    simp only [Part.mountOp, hlane, hended]
    rfl
  show (q.placeMountAll.lane l).waiting.mount = _
  rw [Part.placeMountAll_lane, Part.placeMount_asks hop hpark hstopped (by rw [hlane]; rfl) (by rw [hlane]; simp [LaneRec.flier, LaneRec.reset]),
    Part.lane_place_same, hlane]
  rfl

/-- Settles O29. -/
theorem storeGoodStartsMount : Obligations.StoreGoodStartsMount := by
  unfold Obligations.StoreGoodStartsMount
  refine ⟨fun s hlive hseen => ⟨_, exec_storeGoodRise hlive, ?_⟩, fun s hlive hsettle hpark hlanes hmount => ⟨_, exec_storeGoodSettled hlive, ?_⟩⟩
  · rw [Part.seeStoreGood_rise (by exact hseen)]
    simp only [State.withPart, Part.refreshErase_frame, Part.refreshErase_lane_fields]
    refine ⟨trivial, fun hwaiting hzeroed hpark => ?_, fun hpark => ?_, fun hwake => ?_, trivial, trivial, trivial, trivial, fun l => rfl⟩
    · exact (Part.mountMaySettle_iff _).2 ⟨hwaiting, hzeroed, hpark, Part.not_stopped_of_live hlive⟩
    · exact Bool.eq_false_iff.2 fun h => ((Part.mountMaySettle_iff _).1 h).2.2.1 hpark
    · obtain ⟨w, hw⟩ := Option.isSome_iff_exists.1 hwake
      rw [hw]
      rfl
  · rw [if_pos hsettle]
    simp only [State.withPart, Part.refreshErase_frame, Part.startMount, Part.placeMountAll_frame]
    refine ⟨trivial, trivial, fun l => ?_, trivial, trivial, trivial, trivial⟩
    exact (Part.refreshErase_waiting s.part.startMount l (rq := .mount) (by decide)).trans
      (Part.startMount_identifies hpark (Part.not_stopped_of_live hlive) hlanes hmount l)

end Sys2Proof.Machine
end

section
/-! SUPPORT. The loss of lanes: IDENTIFYs given up, lanes gone OFFLINE, and what each unit makes of its operation there (R58,
R69 to R71, R121, R134, R141, R171). -/

namespace Sys2Proof.Machine

/-! ## Lanes with nothing on them -/

/-- No erase is asked of a lane that is not PRESENT. -/
theorem Part.refreshErase_dead {p : Part} {l : Lane} (h : (p.lane l).Dead) : p.refreshErase.lane l = p.lane l := by
  obtain ⟨hstate, hflight, _, hwaiting⟩ := h
  have hpresent : p.present l = false := by rcases hstate with h | h <;> simp [Part.present, h]
  have hnot : ∀ i, p.eligible ⟨l, i⟩ (p.seg ⟨l, i⟩) = false := fun i => Bool.eq_false_iff.2 fun he => by
    obtain ⟨_, _, _, _, hp, _⟩ := (p.eligible_iff _ _).1 he
    rw [hpresent] at hp
    exact Bool.noConfusion hp
  have hstands : p.eraseStands l = false := Bool.eq_false_iff.2 fun hs => by
    obtain ⟨i, _, _, he⟩ := (p.eraseStands_iff l).1 hs
    rw [hnot] at he
    exact Bool.noConfusion he
  have herase : (p.refreshErase.lane l).waiting.erase = (p.lane l).waiting.erase := by
    rw [Part.refreshErase_erase, Part.eraseAfter, hstands, Part.eraseChoice_none hnot, hwaiting]
    simp [Waiting.empty]
  have hrest := p.refreshErase_lane_rest l
  rw [← herase] at hrest
  exact hrest

/-- A lane record once its IDENTIFY has been given up (R58). -/
def LaneRec.absent (r : LaneRec) : LaneRec :=
  { r with state := .absent, count := 0, inFlight := none, heldBack := none, waiting := .empty }

theorem LaneRec.absent_dead (r : LaneRec) : r.absent.Dead := ⟨.inl rfl, rfl, rfl, rfl⟩

theorem Part.becomeAbsent_eq (p : Part) (l : Lane) : p.becomeAbsent l = { p with
    lanes := p.lanes.set l (p.lane l).absent,
    mount.lanes := p.mount.lanes.set l { p.mount.lanes.get l with identEnded := true } } := rfl

theorem Part.lane_dropIdentify (p : Part) (l k : Lane) : (p.dropIdentify l).lane k =
    if k = l ∧ (p.lane k).identifying = true then (p.lane k).absent else p.lane k := by
  by_cases hk : k = l
  · subst hk
    unfold Part.dropIdentify
    by_cases h : (p.lane k).identifying = true
    · rw [if_pos h, if_pos ⟨rfl, h⟩]
      exact Quad.get_set_same _ _ _
    · rw [if_neg h, if_neg (by simp [h])]
  · rw [if_neg (by simp [hk])]
    unfold Part.dropIdentify
    split
    · exact Quad.get_set_other _ _ hk
    · rfl

theorem Part.dropIdentify_mount (p : Part) (l k : Lane) : (p.dropIdentify l).mount.lanes.get k =
    if k = l ∧ (p.lane k).identifying = true then { p.mount.lanes.get k with identEnded := true } else p.mount.lanes.get k := by
  by_cases hk : k = l
  · subst hk
    unfold Part.dropIdentify
    by_cases h : (p.lane k).identifying = true
    · rw [if_pos h, if_pos ⟨rfl, h⟩]
      exact Quad.get_set_same _ _ _
    · rw [if_neg h, if_neg (by simp [h])]
  · rw [if_neg (by simp [hk])]
    unfold Part.dropIdentify
    split
    · exact Quad.get_set_other _ _ hk
    · rfl

theorem Part.lane_dropIdentifies (p : Part) (l : Lane) : p.dropIdentifies.lane l =
    if (p.lane l).identifying = true then (p.lane l).absent else p.lane l := by
  unfold Part.dropIdentifies
  fin_cases l <;> simp [Part.lane_dropIdentify]

theorem Part.dropIdentifies_mount (p : Part) (l : Lane) : p.dropIdentifies.mount.lanes.get l =
    if (p.lane l).identifying = true then { p.mount.lanes.get l with identEnded := true } else p.mount.lanes.get l := by
  unfold Part.dropIdentifies
  fin_cases l <;> simp [Part.lane_dropIdentify, Part.dropIdentify_mount]

/-- All but the lane records and the header step's progress on the lanes is the same. -/
def Part.lanesAside (p q : Part) : Prop := ({ q with lanes := p.lanes, mount.lanes := p.mount.lanes } : Part) = p

theorem Part.lanesAside.trans {p q r : Part} (h1 : p.lanesAside q) (h2 : q.lanesAside r) : p.lanesAside r :=
  (congrArg (fun x : Part => { x with lanes := p.lanes, mount.lanes := p.mount.lanes }) h2 :).trans h1

theorem Part.dropIdentify_aside (p : Part) (l : Lane) : p.lanesAside (p.dropIdentify l) := by
  unfold Part.dropIdentify
  split <;> rfl

theorem Part.dropIdentifies_aside (p : Part) : p.lanesAside p.dropIdentifies :=
  (((p.dropIdentify_aside 0).trans (Part.dropIdentify_aside _ 1)).trans (Part.dropIdentify_aside _ 2)).trans
    (Part.dropIdentify_aside _ 3)

theorem LaneRec.identifying_iff (r : LaneRec) : r.identifying = true ↔ r.state = .unknown
    ∧ ((∃ f, r.inFlight = some f ∧ f.op = .identify) ∨ ∃ q, r.waiting.mount = some q ∧ q.op = .identify) := by
  simp [LaneRec.identifying, Option.any_eq_true]

/-! ## Commands that lose lanes -/

theorem exec_timeLimitExpiry {s : State} (l : Lane) (h : s.part.live = true) : exec (.timeLimitExpiry l) s
    = .next (s.withPart (s.part.limitExpires l).refreshErase) := run_act_live h

theorem Part.limitExpires_identify {p : Part} {l : Lane} {f : InFlight} (hf : (p.lane l).inFlight = some f)
    (hop : f.op = .identify) : p.limitExpires l = (p.becomeAbsent l).mountProgress := by
  obtain ⟨rq, op, ms, disc⟩ := f
  obtain rfl : op = .identify := hop
  simp only [Part.limitExpires, hf]

theorem Part.limitExpires_other {p : Part} {l : Lane} {f : InFlight} (hf : (p.lane l).inFlight = some f)
    (hop : f.op ≠ .identify) : p.limitExpires l = p.loseLanes [l] .laneTimeout := by
  unfold Part.limitExpires
  rw [hf]
  split
  · next h => exact absurd h (by simp)
  · next h => exact absurd (congrArg InFlight.op (Option.some.inj h)) hop
  · rfl

/-- While an IDENTIFY has not ended the identify step goes on with its requests alone (R166). -/
theorem Part.mountProgress_identifying {p : Part} {other : Lane} (hstate : p.mount.state = .mounting)
    (hstep : p.mount.step = .identify) (hother : (p.mount.lanes.get other).identEnded = false) :
    p.mountProgress = p.placeMountAll := by
  have hidentified : p.identified = false := by
    fin_cases other <;> simp_all [Part.identified, Quad.toList, Quad.get]
  simp [Part.mountProgress, Part.endIdentify, hstate, hstep, hidentified]

/-- Lanes as `supplyFalls` leaves them before the mount engine takes stock. -/
theorem Part.supplyLost_lane {u : Part} (l : Lane) :
    (u.present l = true → u.dropIdentifies.loseSupply.lane l = (u.lane l).offline)
    ∧ ((u.lane l).identifying = true → u.dropIdentifies.loseSupply.lane l = (u.lane l).absent)
    ∧ (u.present l = false → (u.lane l).identifying = false →
        (u.dropIdentifies.loseSupply.lane l).state = (u.lane l).state) := by
  have hdropped := u.lane_dropIdentifies l
  refine ⟨fun hpresent => ?_, fun hident => ?_, fun hpresent hident => ?_⟩
  · have hident : ¬ (u.lane l).identifying = true := fun h => by
      have hunknown := ((LaneRec.identifying_iff _).1 h).1
      rw [(u.present_iff l).1 hpresent] at hunknown
      simp at hunknown
    rw [if_neg hident] at hdropped
    rw [← hdropped]
    exact Part.loseLanes_lane_lost _ _ ((Part.mem_presentLanes _ _).2 (by rwa [Part.present, hdropped]))
  · rw [if_pos hident] at hdropped
    rw [← hdropped]
    refine (Part.loseLanes_lane_kept _ _ fun hmem => ?_).dead (hdropped ▸ LaneRec.absent_dead _)
    have hpresent := (Part.mem_presentLanes _ _).1 hmem
    rw [Part.present, hdropped] at hpresent
    exact Bool.noConfusion hpresent
  · rw [if_neg (by simp [hident])] at hdropped
    rw [← hdropped]
    refine (Part.loseLanes_lane_kept _ _ fun hmem => ?_).fields.1
    have hlost := (Part.mem_presentLanes _ _).1 hmem
    rw [Part.present, hdropped] at hlost
    exact Bool.false_ne_true (hpresent.symm.trans hlost)

/-- The mount engine's stock taking and the erase requests leave a lane with nothing on it as it is. -/
theorem Part.progress_dead {p : Part} {l : Lane} (h : (p.lane l).Dead) : p.mountProgress.refreshErase.lane l = p.lane l := by
  have hkept := (p.inside_mountProgress.lanes l).dead h
  rw [Part.refreshErase_dead (by rwa [hkept]), hkept]

theorem Part.loseLanes_identEnded (p : Part) (lost : List Lane) (why : Reason) {l : Lane}
    (h : (p.mount.lanes.get l).identEnded = true) : ((p.loseLanes lost why).mount.lanes.get l).identEnded = true := by
  refine (p.inside_loseLanes' lost why).identified l ?_
  have houtside := p.dropLanes_outside lost
  simp only [Part.outside, Prod.mk.injEq] at houtside
  rw [houtside.2.2.2.2]
  exact h

/-! ## Requesters told of a loss (R69, R71) -/

theorem LaneRec.ended_flying {r : LaneRec} {rq : Requester} {op : StoreOp} {ms : Nat} (why : Reason)
    (h : r.inFlight = some ⟨rq, op, ms, false⟩) : r.ended why rq = some why := by
  simp [LaneRec.ended, h]

theorem LaneRec.ended_idle {r : LaneRec} {rq : Requester} (why : Reason) (h : r.flier ≠ some rq) :
    r.ended why rq = (r.waiting.get rq).map fun _ => .laneOffline := by
  have hnot : ∀ g : InFlight → Bool, (r.inFlight.any fun f => f.requester == rq && g f) = false := fun g => by
    cases hf : r.inFlight with
    | none => rfl
    | some f =>
      have hne : f.requester ≠ rq := fun he => h (by rw [LaneRec.flier, hf, ← he]; rfl)
      simp [hne]
  have hdiscards : r.discards rq = false := by rw [LaneRec.discards, hnot, Bool.and_false]
  rw [LaneRec.ended, hnot, hdiscards]
  cases r.waiting.get rq <;> rfl

theorem LaneRec.ended_discarded {r : LaneRec} {rq : Requester} {op : StoreOp} {ms : Nat} (why : Reason)
    (h : r.inFlight = some ⟨rq, op, ms, true⟩) (hrq : rq ∈ [Requester.record, .scan, .reclaim]) (hw : r.waiting.get rq = none) :
    r.ended why rq = r.heldBack.map fun _ => .laneOffline := by
  have hmay : rq.mayDiscard = true := by
    simp only [List.mem_cons, List.not_mem_nil, or_false] at hrq
    rcases hrq with rfl | rfl | rfl <;> rfl
  cases hb : r.heldBack <;> simp [LaneRec.ended, LaneRec.discards, h, hmay, hw, hb]

/-! ## The tables, reclaim and mount told of a loss (R41, R47, R156, R157, R171) -/

theorem Part.abandonHead_lost {p : Part} {lost : List Lane} {a : SegAddr} {e : SegEntry} (h : p.headSeg = some (a, e))
    (hl : a.lane ∈ lost) : p.abandonHead lost = Part.releaseIfClosed a
      { p.modSeg a (fun e => { e with state := .closed, trailered := false }) with head.recordsInHead := 0 } := by
  simp [Part.abandonHead, h, hl]

theorem Part.abandonHead_kept {p : Part} {lost : List Lane} (h : ∀ a e, p.headSeg = some (a, e) → a.lane ∉ lost) :
    p.abandonHead lost = p := by
  unfold Part.abandonHead
  split
  · rfl
  · next a e he => rw [if_neg (by simp [h a e he])]

theorem Part.mem_lostErases (p : Part) (lost : List Lane) (x : SegAddr) : x ∈ p.lostErases lost ↔
    ∃ e, (x, e) ∈ p.entries ∧ (e.state = .eraseWait ∨ e.state = .erasing) ∧ x.lane ∈ lost := by
  simp [Part.lostErases, and_assoc]

theorem Part.reclaimLoses_tail {p : Part} {lost : List Lane} {a : SegAddr} (h : p.reclaim.tail = some a) (hl : a.lane ∈ lost) :
    p.reclaimLoses lost = p.haltReclaim := by
  simp [Part.reclaimLoses, Part.tailLost, h, hl]

theorem Part.reclaimLoses_kept {p : Part} {lost : List Lane} (h : ∀ a, p.reclaim.tail = some a → a.lane ∉ lost) :
    p.reclaimLoses lost = p.recheckCopyWait := by
  unfold Part.reclaimLoses Part.tailLost
  cases ht : p.reclaim.tail with
  | none => rfl
  | some a => rw [if_neg (by simp [h a ht])]

theorem Part.mountLoses_headers {p : Part} (lost : List Lane) (hstate : p.mount.state = .mounting)
    (hstep : p.mount.step = .identify ∨ p.mount.step = .headers) :
    p.mountLoses lost = (lost.foldl (fun x l => x.loseHeaders l) p).mountProgress := by
  rcases hstep with h | h <;> simp only [Part.mountLoses, hstate, h, if_true]

/-! ## The record unit, the scan unit and the head writer told of a loss (R121, R134, R141) -/

theorem Part.recordLoses_reading {p : Part} {o : RecordOrder} {g : GetRead} (why : Reason) (ho : p.record = some o)
    (hg : o.step = .reading g) : p.recordLoses (some why) = Part.finishRecord
      { faultResult why with sequence := g.entry.sequence, length := BitVec.ofNat 16 g.entry.length }
      (p.releaseReader g.holds) := by
  simp only [Part.recordLoses, Part.getLost, ho, hg]
  rfl

theorem Part.scanLoses_inHand {p : Part} {o : ScanOrder} {h : ScanHand} (why : Reason) (ho : p.scan = some o)
    (hh : o.inHand = some h) : p.scanLoses (some why) = Part.scanBoundary { p.releaseReader h.holds with scan := some { o with
      damaged := min 255 (o.damaged + 1), examined := min 65535 (o.examined + 1), cursor := h.entry.key + 1, inHand := none } } := by
  simp only [Part.scanLoses, Part.scanLost, ho, hh]
  rfl

/-- How a program on a lost lane ended. -/
def lostEnd (why : Reason) : ProgEnd := if why = .laneTimeout then .laneTimeout else .laneOffline

theorem Part.headLoses_eq (p : Part) {why : Reason} (h : why = .laneTimeout ∨ why = .laneOffline) :
    p.headLoses (some why) = p.programEnds (lostEnd why) := by
  rcases h with rfl | rfl <;> rfl

theorem lostEnd_ne_pass (why : Reason) : lostEnd why ≠ .pass := by
  unfold lostEnd
  split <;> decide

theorem SegEntry.closedBy_lost (cause : CloseCause) (why : Reason) : SegEntry.closedBy cause (lostEnd why) = fun e => { e with
    state := .closed, trailered := false, retire := e.retire || decide (cause ≠ .noRoom) } := by
  funext e
  simp only [lostEnd, SegEntry.closedBy]
  split <;> cases cause <;> cases e.retire <;> rfl

theorem Part.headLoses_programming_order {p : Part} {a : Append} {sg : SegAddr} {first : Nat} {r : OrderReq} {why : Reason}
    (ha : p.head.append = some a) (hwhy : why = .laneTimeout ∨ why = .laneOffline) (hstep : a.step = .programming sg first)
    (hw : a.work = .order r) : p.headLoses (some why) = Part.finishRecord
      { faultResult why with retried := a.repeated, sequence := a.sequence } { p with head.append := none } := by
  rw [Part.headLoses_eq _ hwhy, Part.programEnds_programming _ _ ha hstep]
  rcases hwhy with rfl | rfl
  all_goals
    simp only [lostEnd, Part.lineEnds, Part.endAppend, hw, if_true, if_false, reduceCtorEq]
    rfl

theorem Part.headLoses_programming_copy {p : Part} {a : Append} {sg : SegAddr} {first : Nat} {c : CopyReq} {why : Reason}
    (ha : p.head.append = some a) (hwhy : why = .laneTimeout ∨ why = .laneOffline) (hstep : a.step = .programming sg first)
    (hw : a.work = .copy c) : p.headLoses (some why) = Part.copyAnswer .laneLost { p with head.append := none } := by
  rw [Part.headLoses_eq _ hwhy, Part.programEnds_programming _ _ ha hstep]
  rcases hwhy with rfl | rfl
  all_goals
    simp only [lostEnd, Part.lineEnds, Part.endAppend, hw, if_true, if_false, reduceCtorEq]
    rfl

theorem Part.headLoses_opening {p : Part} {a : Append} {sg : SegAddr} {why : Reason} (ha : p.head.append = some a)
    (hwhy : why = .laneTimeout ∨ why = .laneOffline) (hstep : a.step = .opening sg) :
    p.headLoses (some why) = (p.modSeg sg fun e => { e with state := .eraseWait, retire := true }).onward a := by
  rw [Part.headLoses_eq _ hwhy, Part.programEnds_opening _ _ ha hstep, Part.openEnds_lost _ _ _ (lostEnd_ne_pass why)]

theorem Part.headLoses_closing {p : Part} {a : Append} {sg : SegAddr} {cause : CloseCause} {why : Reason}
    (ha : p.head.append = some a) (hwhy : why = .laneTimeout ∨ why = .laneOffline) (hstep : a.step = .closing sg cause)
    (hhead : (p.seg sg).state ≠ .head) :
    let closed : Part := { p.modSeg sg (fun e => { e with
      state := .closed, trailered := false, retire := e.retire || decide (cause ≠ .noRoom) }) with head.recordsInHead := 0 }
    p.headLoses (some why) = if cause = .secondFailure then closed.endAppend .programFault a else closed.onward a := by
  intro closed
  rw [Part.headLoses_eq _ hwhy, Part.programEnds_closing _ _ ha hstep]
  simp only [Part.closeEnds, SegEntry.closedBy_lost, if_neg hhead]
  cases cause <;> rfl

theorem Part.not_identifying_of_present {p : Part} {l : Lane} (h : p.present l = true) : (p.lane l).identifying = false :=
  Bool.eq_false_iff.2 fun hi => by
    have hunknown := ((LaneRec.identifying_iff _).1 hi).1
    rw [(p.present_iff l).1 h] at hunknown
    simp at hunknown

/-- A fall of STORE_GOOD outside PARK: the inputs seen, each lane, the IDENTIFYs ended and the notice raised (R58, R70). -/
theorem Part.supplyFalls_outcome (u : Part) :
    u.supplyFalls.refreshErase.seen = u.seen
    ∧ (∀ l, u.present l = true → u.supplyFalls.refreshErase.lane l = (u.lane l).offline)
    ∧ (∀ l, (u.lane l).identifying = true → (u.supplyFalls.refreshErase.mount.lanes.get l).identEnded = true
        ∧ u.supplyFalls.refreshErase.lane l = (u.lane l).absent)
    ∧ (∀ l, u.present l = false → (u.lane l).identifying = false →
        (u.supplyFalls.refreshErase.lane l).state = (u.lane l).state)
    ∧ ((∃ l, u.present l = true) → u.supplyFalls.refreshErase.bus.sticky &&& 0x04 = 0x04) := by
  have hprogress := u.dropIdentifies.loseSupply.inside_mountProgress
  have hfalls : u.supplyFalls = u.dropIdentifies.loseSupply.mountProgress := rfl
  refine ⟨?_, fun l hl => ?_, fun l hl => ⟨?_, ?_⟩, fun l hl hi => ?_, fun ⟨l, hl⟩ => ?_⟩
  · have hdropped : u.dropIdentifies.seen = u.seen := (congrArg Part.seen u.dropIdentifies_aside :)
    have hlost : u.dropIdentifies.loseSupply.seen = u.dropIdentifies.seen := (Part.loseLanes_power _ _ _).2
    rw [(Part.refreshErase_frame _).2.1, hfalls, hprogress.seen, hlost, hdropped]
  · have hlost := (u.supplyLost_lane l).1 hl
    rw [hfalls, Part.progress_dead (by rw [hlost]; exact LaneRec.offline_dead _), hlost]
  · have hmount : u.supplyFalls.refreshErase.mount = u.supplyFalls.mount := by simp
    have hended : (u.dropIdentifies.mount.lanes.get l).identEnded = true := by rw [u.dropIdentifies_mount, if_pos hl]
    rw [hmount, hfalls]
    exact hprogress.identified l (Part.loseLanes_identEnded u.dropIdentifies u.dropIdentifies.presentLanes .laneOffline hended)
  · have hlost := (u.supplyLost_lane l).2.1 hl
    rw [hfalls, Part.progress_dead (by rw [hlost]; exact LaneRec.absent_dead _), hlost]
  · rw [(Part.refreshErase_lane_fields _ l).1, hfalls, (hprogress.lanes l).fields.1, (u.supplyLost_lane l).2.2 hl hi]
  · rw [(Part.refreshErase_frame _).2.2.1, hfalls]
    refine sticky_kept hprogress.raised
      (Part.loseLanes_notice u.dropIdentifies .laneOffline (lost := u.dropIdentifies.presentLanes) fun hnone => ?_)
    have hdropped := u.lane_dropIdentifies l
    rw [u.not_identifying_of_present hl, if_neg Bool.false_ne_true] at hdropped
    have hmem := (u.dropIdentifies.mem_presentLanes l).2 (by rw [Part.present, hdropped]; exact hl)
    rw [hnone] at hmem
    simp at hmem

/-- A time limit's expiry on an operation other than IDENTIFY. -/
theorem Part.laneTimeout_outcome (p : Part) (l : Lane) :
    (p.loseLanes [l] .laneTimeout).refreshErase.lane l = (p.lane l).offline
    ∧ (p.loseLanes [l] .laneTimeout).refreshErase.bus.sticky &&& 0x04 = 0x04 := by
  have hlost := p.loseLanes_lane_lost .laneTimeout (List.mem_singleton_self l)
  refine ⟨(Part.refreshErase_dead (by rw [hlost]; exact LaneRec.offline_dead _)).trans hlost, ?_⟩
  rw [(Part.refreshErase_frame _).2.2.1]
  exact Part.loseLanes_notice _ _ (by simp)

/-- A time limit's expiry on an IDENTIFY. -/
theorem Part.identifyTimeout_outcome (p : Part) (l : Lane) :
    (p.becomeAbsent l).mountProgress.refreshErase.lane l = (p.lane l).absent
    ∧ ((p.becomeAbsent l).mountProgress.refreshErase.mount.lanes.get l).identEnded = true
    ∧ ∀ other, p.mount.state = .mounting → p.mount.step = .identify → other ≠ l →
        (p.mount.lanes.get other).identEnded = false → (p.becomeAbsent l).mountProgress = (p.becomeAbsent l).placeMountAll := by
  have habsent : (p.becomeAbsent l).lane l = (p.lane l).absent := Quad.get_set_same _ _ _
  have hended : ((p.becomeAbsent l).mount.lanes.get l).identEnded = true := by
    rw [p.becomeAbsent_eq, Quad.get_set_same]
  refine ⟨(Part.progress_dead (by rw [habsent]; exact LaneRec.absent_dead _)).trans habsent, ?_, fun other hstate hstep hother hopen => ?_⟩
  · have hmount : (p.becomeAbsent l).mountProgress.refreshErase.mount = (p.becomeAbsent l).mountProgress.mount := by simp
    rw [hmount]
    exact (Part.inside_mountProgress _).identified l hended
  · refine Part.mountProgress_identifying (p := p.becomeAbsent l) (other := other) hstate hstep ?_
    rw [p.becomeAbsent_eq, Quad.get_set_other _ _ hother, hopen]

/-- Settles O30. -/
theorem lanesLost : Obligations.LanesLost := by
  unfold Obligations.LanesLost
  refine ⟨fun s hlive hseen => ?_, fun s l f hlive hf => ⟨fun hop => ⟨_, exec_timeLimitExpiry l hlive, ?_⟩, fun hop => ⟨_, exec_timeLimitExpiry l hlive, ?_⟩⟩,
    fun p l => rfl, fun p => ⟨p.lane_dropIdentifies, p.dropIdentifies_mount, p.dropIdentifies_aside, rfl⟩, LaneRec.identifying_iff,
    fun p lost why => ?_, fun r why rq => ⟨fun op ms => LaneRec.ended_flying why, fun q h hq => by rw [LaneRec.ended_idle why h, hq]; rfl,
      fun h hq => by rw [LaneRec.ended_idle why h, hq]; rfl, fun op ms => LaneRec.ended_discarded why⟩,
    fun p lost => ?_, fun p why => ⟨⟨rfl, rfl, rfl⟩, fun o g => Part.recordLoses_reading why, fun o h => Part.scanLoses_inHand why,
      fun a ha hwhy => ⟨fun sg first r => Part.headLoses_programming_order ha hwhy, fun sg first c => Part.headLoses_programming_copy ha hwhy,
        fun sg => Part.headLoses_opening ha hwhy, fun sg cause => Part.headLoses_closing ha hwhy⟩⟩⟩
  · intro u
    have hfall := exec_storeGoodFall hlive
    rw [Part.seeStoreGood_fall (by exact hseen)] at hfall
    refine ⟨fun hpark => ?_, fun hpark => ?_⟩
    · have hin : s.part.power.state = .park ∨ s.part.power.state = .stopped := .inl hpark
      simp only [if_pos hin] at hfall
      exact hfall
    · have hout : ¬ (s.part.power.state = .park ∨ s.part.power.state = .stopped) :=
        not_or.2 ⟨hpark, Part.not_stopped_of_live hlive⟩
      simp only [if_neg hout] at hfall
      obtain ⟨hseen, hpresent, hident, hrest, hnotice⟩ := u.supplyFalls_outcome
      change exec .storeGoodFall s = .next (s.withPart u.supplyFalls.refreshErase) at hfall
      generalize hq : u.supplyFalls.refreshErase = q at hfall hseen hpresent hident hrest hnotice
      exact ⟨s.withPart q, hfall, by rw [← hq]; rfl, congrArg Inputs.storeGood hseen, hpresent, hident, hrest, hnotice⟩
  · rw [Part.limitExpires_other hf hop]
    obtain ⟨hlane, hnotice⟩ := s.part.laneTimeout_outcome l
    exact ⟨rfl, hlane, hnotice⟩
  · rw [Part.limitExpires_identify hf hop]
    obtain ⟨hlane, hended, hprogress⟩ := s.part.identifyTimeout_outcome l
    refine ⟨rfl, hlane, hended, fun other hstate hstep hother hopen => ?_⟩
    have hother' : ∀ k, k ≠ l → (s.part.becomeAbsent l).lane k = s.part.lane k := fun k hk => Quad.get_set_other _ _ hk
    rw [hprogress other hstate hstep hother hopen]
    simp only [State.withPart, Part.refreshErase_frame, Part.placeMountAll_frame, Part.refreshErase_lane_fields]
    refine ⟨fun k hk => ?_, hstep, rfl, rfl, rfl, rfl, rfl, rfl⟩
    rw [← hother' k hk]
    refine ⟨((Part.inside_placeMountAll _).lanes k).fields.1, ?_⟩
    rw [Part.placeMountAll_lane, Part.placeMount_flight]
  · refine ⟨rfl, fun h => ?_⟩
    unfold Part.loseLanes
    rw [if_neg (by simpa using h)]
    rfl
  · refine ⟨rfl, p.lane_dropLanes lost, p.dropLanes_rest lost, rfl, fun a e => Part.abandonHead_lost, Part.abandonHead_kept,
      p.mem_lostErases lost, fun a => Part.reclaimLoses_tail, Part.reclaimLoses_kept, fun h => if_neg h,
      Part.mountLoses_headers lost, fun hstate hstep => ?_⟩
    simp only [Part.mountLoses, hstate, hstep, if_true]

end Sys2Proof.Machine
end

section
/-! SUPPORT. The clock's stop and return, and what a part that takes no events answers (R184, R186; log 1, log 11, log 12). -/

namespace Sys2Proof.Machine

/-! ## A part that takes no events -/

theorem Part.live_eq_false {p : Part}
    (h : p.power.state = .stopped ∨ p.power.clockRunning = false ∨ p.power.resetLow = true) : p.live = false := by
  rcases h with h | h | h <;> simp [Part.live, h]

/-- Every command that is an event inside the part is a change taken while the part takes events. -/
theorem exec_inside (c : Instr) (s : State) (h : isInside c = true) (hwf : c.wf = true) :
    ∃ f, exec c s = run (Part.act f) s := by
  cases c
  case readLineEnd l bytes =>
    have hlength : bytes.length = lineLength := by simpa [Instr.wf] using hwf
    exact ⟨Part.readEnds l bytes, if_pos hlength⟩
  case zeroingEnd | clearTakesEffect | storeGoodSettled | laneGrant _ | identifyEnd _ _ _ | programLineEnd _ _
    | eraseSegmentEnd _ _ | timeLimitExpiry _ | put | get | drop | scan | reclaim | format | survey | badKind
    | orderAppendGrant | copyGrant | formatTakeTable | quietReached | wakeSettled | wakeLimit | entryBoundary => exact ⟨_, rfl⟩
  all_goals exact absurd h Bool.false_ne_true

theorem run_act_not_live {f : Part → Part} {s : State} (h : s.part.live = false) : run (Part.act f) s = .next s := by
  rw [run_next, act_of_not_live h]

/-- An input's change alone where the part does not see it. -/
theorem run_pinEvent_not_live {pin see : Part → Part} {s : State} (h : (pin s.part).live = false) :
    run (Part.pinEvent pin see) s = .next (s.withPart (pin s.part)) := by
  rw [run_next, Part.pinEvent, act_of_not_live h]
  rfl

/-! ## The clock stops (R184, R92) -/

theorem exec_clockStop_park {s : State} (h : s.part.power.state = .park) : exec .clockStop s = .next { s with
    part.power.state := .stopped, part.power.wake := none, part.power.clockRunning := false,
    part.power.returnCounting := false,
    part.bus.serial := if s.part.busMode = .serial then s.part.bus.serial.afterReset else s.part.bus.serial,
    part.bus.dataOut := if s.part.busMode = .serial then none else s.part.bus.dataOut } := by
  have hmode : Part.busMode { s.part with
      power.state := .stopped, power.wake := none, power.clockRunning := false, power.returnCounting := false }
      = s.part.busMode := rfl
  show run Part.stopClock s = _
  rw [run_next]
  simp only [Part.stopClock, if_pos h, Part.releaseLink, hmode]
  by_cases hserial : s.part.busMode = .serial
  · simp only [if_pos hserial]
  · simp only [if_neg hserial]

theorem exec_clockStop_other {s : State} (h : s.part.power.state ≠ .park) : exec .clockStop s = .next { s with
    part.power.clockRunning := false, part.power.returnCounting := false } := by
  show run Part.stopClock s = _
  rw [run_next]
  simp only [Part.stopClock, if_neg h]

/-! ## The clock returns (R184) -/

theorem exec_clockReturn_stopped {s : State} (hstate : s.part.power.state = .stopped)
    (hclock : s.part.power.clockRunning = false) : exec .clockReturn s = .next { s with
    part.power.clockRunning := true, part.power.returnCounting := true } := by
  show run Part.returnClock s = _
  rw [run_next]
  simp only [Part.returnClock, hclock, if_pos hstate, Bool.false_eq_true, if_false]

theorem exec_clockReturn_other {s : State} (hreset : s.part.power.resetLow = false) (hstate : s.part.power.state ≠ .stopped)
    (hclock : s.part.power.clockRunning = false) : exec .clockReturn s = .next (s.withPart
      (Part.seeInputs { s.part with power.clockRunning := true }).refreshErase) := by
  have hlive : Part.live { s.part with power.clockRunning := true } = true := by simp [Part.live, hreset, hstate]
  show run Part.returnClock s = _
  rw [run_next]
  simp only [Part.returnClock, hclock, if_neg hstate, Bool.false_eq_true, if_false, act_of_live hlive]
  rfl

theorem exec_clockReturn_running {s : State} (h : s.part.power.clockRunning = true) : exec .clockReturn s = .next s := by
  show run Part.returnClock s = _
  rw [run_next]
  simp only [Part.returnClock, if_pos h]

/-! ## PARK again (R184) -/

theorem exec_returnCountEnd {s : State} (hreset : s.part.power.resetLow = false) (hstate : s.part.power.state = .stopped)
    (hclock : s.part.power.clockRunning = true) (hcount : s.part.power.returnCounting = true) :
    exec .returnCountEnd s = .next (s.withPart s.part.backToPark.refreshErase) := by
  show run Part.returnEnds s = _
  rw [run_next]
  simp only [Part.returnEnds, hreset, hstate, hclock, hcount, beq_self_eq_true, Bool.not_false, Bool.and_self, if_true]
  rfl

/-- What a part in PARK holds once it has seen the inputs as they stand. -/
structure Part.SeenInPark (p q : Part) : Prop where
  seen : q.seen = p.pins
  power : { q.power with wake := none } = ({ p.power with wake := none } : Power)
  wake : p.power.wake = none → q.power.wake = none
  levels : q.bus.parkLevel = p.bus.parkLevel

theorem Part.seePwarn_park {p : Part} (level : Bool) (h : p.power.state = .park) :
    p.seePwarn level = { p with seen.pwarn := level } := by
  simp only [Part.seePwarn, h]

theorem Part.inside_seeWinh (p : Part) (level : Bool) : ({ p with seen.winh := level } : Part).Inside (p.seeWinh level) := by
  simp only [Part.seeWinh]
  split
  · exact Part.inside_requestSetBack _ _
  · exact .refl _

/-- STORE_GOOD seen in PARK: the wake's settle count follows it, and nothing is lost (R70, R183). -/
theorem Part.seeStoreGood_park {p : Part} (level : Bool) (h : p.power.state = .park) : p.seeStoreGood level =
    if level = p.seen.storeGood then p
    else { p with seen.storeGood := level, power.wake := p.power.wake.map fun _ => ⟨level⟩, mount.settle := false } := by
  have hsettle : ∀ q : Part, q.power.state = .park → q.startSettle = { q with mount.settle := false } := fun q hq => by
    simp [Part.startSettle, Part.mountMaySettle, hq]
  have hb : (p.power.state != .park) = false := by rw [h]; rfl
  simp only [Part.seeStoreGood, hb, Bool.and_false, Bool.false_and, Bool.false_eq_true, if_false]
  split
  · rfl
  · exact hsettle _ h

theorem Part.seeInputs_park {p : Part} (h : p.power.state = .park) : p.SeenInPark p.seeInputs := by
  have hwinh := Part.inside_seeWinh { p with seen.pwarn := p.pins.pwarn } p.pins.winh
  have hseen := hwinh.seen
  have hpower := hwinh.power
  have hpark := (Bus.levels_eq_of_withoutSticky hwinh.bus).2
  rw [Part.seeInputs, Part.seePwarn_park _ h]
  generalize Part.seeWinh p.pins.winh { p with seen.pwarn := p.pins.pwarn } = q at hseen hpower hpark
  rw [Part.seeStoreGood_park _ (by rw [hpower]; exact h)]
  split
  · next hgood =>
    refine ⟨?_, by rw [hpower], fun hw => by rw [hpower]; exact hw, hpark⟩
    rw [hseen] at hgood ⊢
    exact (congrArg (fun b => (⟨p.pins.pwarn, p.pins.winh, b⟩ : Inputs)) hgood.symm :)
  · refine ⟨?_, ?_, fun hw => ?_, hpark⟩
    · simp only [hseen]
    · simp only [hpower]
    · simp only [hpower, hw, Option.map_none]

/-- With nothing in progress and nothing counting, the levels seen alone change. -/
theorem Part.seeInputs_park_idle {p : Part} (h : p.power.state = .park) (hwake : p.power.wake = none)
    (happend : p.head.append = none) (hsettle : p.mount.settle = false) : p.seeInputs = { p with seen := p.pins } := by
  have hwinh : ∀ (q : Part) (level : Bool), q.head.append = none → q.seeWinh level = { q with seen.winh := level } :=
    fun q level hq => by
      simp only [Part.seeWinh]
      split
      · exact Part.requestSetBack_idle (p := { q with seen.winh := level }) hq _
      · rfl
  rw [Part.seeInputs, Part.seePwarn_park _ h, hwinh _ _ (by exact happend), Part.seeStoreGood_park _ (by exact h)]
  split
  · next hgood => exact (congrArg (fun b => ({ p with seen := ⟨p.pins.pwarn, p.pins.winh, b⟩ } : Part)) hgood.symm :)
  · simp only [hwake, Option.map_none]
    simp only [← hwake, ← hsettle]

theorem Part.backToPark_outcome (p : Part) : p.backToPark.power.state = .park ∧ p.backToPark.seen = p.pins
    ∧ p.backToPark.power.returnCounting = false
    ∧ (p.bus.parkLevel = false → p.backToPark.power.wake.isSome = true)
    ∧ (p.bus.parkLevel = true → p.power.wake = none → p.backToPark.power.wake = none) := by
  have h := Part.seeInputs_park (p := { p with power.state := .park, power.returnCounting := false }) rfl
  simp only [Part.backToPark]
  generalize Part.seeInputs { p with power.state := .park, power.returnCounting := false } = q at h
  obtain ⟨hseen, hpower, hwake, hpark⟩ := h
  have hstate : q.power.state = .park := (congrArg Power.state hpower :)
  have hcount : q.power.returnCounting = false := (congrArg Power.returnCounting hpower :)
  have hlevel : q.bus.parkLevel = p.bus.parkLevel := hpark
  split
  · next hq =>
    exact ⟨hstate, hseen, hcount, fun hp => absurd (hq.symm.trans (hlevel.trans hp)) (by decide), fun _ => hwake⟩
  · next hq => exact ⟨hstate, hseen, hcount, fun _ => rfl, fun hp => absurd (hlevel.trans hp) hq⟩

theorem Part.backToPark_idle {p : Part} (hwake : p.power.wake = none) (happend : p.head.append = none)
    (hsettle : p.mount.settle = false) : p.backToPark = { p with
      seen := p.pins, power.state := .park, power.returnCounting := false,
      power.wake := if p.bus.parkLevel then none else some ⟨p.pins.storeGood⟩ } := by
  simp only [Part.backToPark,
    Part.seeInputs_park_idle (p := { p with power.state := .park, power.returnCounting := false }) rfl hwake happend hsettle]
  split
  · simp only [← hwake]
  · rfl

/-- Settles O31. -/
theorem clockStopsAndReturns : Obligations.ClockStopsAndReturns := by
  unfold Obligations.ClockStopsAndReturns
  refine ⟨fun s hreset => ⟨exec_clockStop_park, fun hpark t ht => ?_, exec_clockStop_other, exec_clockReturn_stopped,
      exec_clockReturn_other hreset, exec_clockReturn_running, fun hstate hclock hcount => ⟨⟨_, exec_returnCountEnd hreset hstate hclock hcount, ?_⟩, fun hwake happend hsettle => ?_⟩⟩,
    fun b => ⟨fun h => by rw [h]; rfl, fun h => ?_⟩, fun s h => ?_, fun p => rfl,
    fun s hlive => ⟨exec_pwarnAssert hlive, exec_pwarnDeassert hlive, exec_winhAssert hlive, exec_winhDeassert hlive,
      exec_storeGoodRise hlive, exec_storeGoodFall hlive⟩⟩
  · rw [exec_clockStop_park hpark] at ht
    obtain rfl := Host.Outcome.next.inj ht
    simp [Part.lanePwr, hreset]
  · obtain ⟨hpark, hseen, hcounting, hwake, hnoWake⟩ := s.part.backToPark_outcome
    simp only [State.withPart, Part.refreshErase_frame]
    exact ⟨hpark, hseen, hcounting, hwake, hnoWake⟩
  · rw [exec_returnCountEnd hreset hstate hclock hcount, Part.backToPark_idle hwake happend hsettle]
  · cases b with
    | idle => exact absurd rfl h
    | awaitStart => rfl
    | ignoring => rfl
    | framed r read => rfl
  · have hlive : ∀ p : Part, p.power = s.part.power → p.live = false := fun p hp => Part.live_eq_false (by rwa [hp])
    refine ⟨fun c hc hwf => ?_, run_pinEvent_not_live (hlive _ rfl), run_pinEvent_not_live (hlive _ rfl),
      run_pinEvent_not_live (hlive _ rfl), run_pinEvent_not_live (hlive _ rfl), run_pinEvent_not_live (hlive _ rfl),
      run_pinEvent_not_live (hlive _ rfl)⟩
    obtain ⟨f, hf⟩ := exec_inside c s hc hwf
    rw [hf, run_act_not_live (hlive _ rfl)]

end Sys2Proof.Machine
end

section
/-! SUPPORT. The ends of IDENTIFY and the identify step (R58, R61, R166, R173). -/

namespace Sys2Proof.Machine

theorem exec_identifyEnd {s : State} (l : Lane) (lo hi : Byte) (h : s.part.live = true) : exec (.identifyEnd l lo hi) s
    = .next (s.withPart (s.part.identifyEnds l lo hi).refreshErase) := run_act_live h

theorem leNat_pair (lo hi : Byte) : leNat [lo, hi] = lo.toNat + 256 * hi.toNat := rfl

theorem Quad.set_set {α : Type} (q : Quad α) (l : Lane) (x y : α) : (q.set l x).set l y = q.set l y := by
  fin_cases l <;> rfl

/-- A response in range makes the lane PRESENT with an UNSWEPT entry for each of its segments (R58). -/
theorem Part.identifyEnds_present {p : Part} {l : Lane} {lo hi : Byte} {rq : Requester} {ms : Nat} {disc : Bool}
    (hflight : (p.lane l).inFlight = some ⟨rq, .identify, ms, disc⟩) (hlo : 16 ≤ lo.toNat + 256 * hi.toNat)
    (hhi : lo.toNat + 256 * hi.toNat ≤ 1024) : p.identifyEnds l lo hi = Part.mountProgress { p with
      lanes := p.lanes.set l { (p.landed l).lane l with state := .present, count := lo.toNat + 256 * hi.toNat },
      segs := p.segs.set l (List.replicate (lo.toNat + 256 * hi.toNat) (SegEntry.cleared .unswept)),
      mount.lanes := p.mount.lanes.set l { p.mount.lanes.get l with identEnded := true } } := by
  simp only [Part.identifyEnds, hflight, leNat_pair, Part.identifyAs, if_pos (And.intro hlo hhi), Part.noteIdentified,
    Part.setLaneMount, Part.setLane, Part.landed, Quad.set_set]

/-- Any other response makes it ABSENT (R58). -/
theorem Part.identifyEnds_absent {p : Part} {l : Lane} {lo hi : Byte} {rq : Requester} {ms : Nat} {disc : Bool}
    (hflight : (p.lane l).inFlight = some ⟨rq, .identify, ms, disc⟩)
    (hout : lo.toNat + 256 * hi.toNat < 16 ∨ 1024 < lo.toNat + 256 * hi.toNat) :
    p.identifyEnds l lo hi = Part.mountProgress { p with
      lanes := p.lanes.set l { (p.landed l).lane l with state := .absent, count := 0 },
      mount.lanes := p.mount.lanes.set l { p.mount.lanes.get l with identEnded := true } } := by
  have hnot : ¬ (16 ≤ lo.toNat + 256 * hi.toNat ∧ lo.toNat + 256 * hi.toNat ≤ 1024) := by omega
  simp only [Part.identifyEnds, hflight, leNat_pair, Part.identifyAs, if_neg hnot, Part.noteIdentified,
    Part.setLaneMount, Part.setLane, Part.landed, Quad.set_set]

/-! ## Taking stock in the identify step -/

theorem Part.mountProgress_outside {p : Part} (h : p.mount.state ≠ .mounting) : p.mountProgress = p := if_neg h

/-- Outside a mount's steps nothing is asked of a lane. -/
theorem Part.placeMountAll_none {p : Part} (h : ∀ l, p.mountOp l = none) : p.placeMountAll = p := by
  have hplace : ∀ l, p.placeMount l = p := fun l => by simp only [Part.placeMount, h]
  simp only [Part.placeMountAll, hplace]

theorem Part.endMount_mount (p : Part) (st : MountState) (code : Nat) : (p.endMount st code).mount =
    { p.mount with state := st, step := .ended, walk := none, outcome := code } := by
  simp only [Part.endMount]
  split
  · rw [(Part.reclaims_compareLow _).mount_eq]
    rfl
  · rfl

theorem Part.mountOp_ended {p : Part} (h : p.mount.step = .ended) (l : Lane) : p.mountOp l = none := by
  simp only [Part.mountOp, h]

theorem Part.failMount_step (p : Part) (code : Nat) : (p.failMount code).mount.step = .ended := by
  simp only [Part.failMount, Part.endMount_mount]

theorem Part.identified_iff (p : Part) : p.identified = true ↔ ∀ l, (p.mount.lanes.get l).identEnded = true := by
  constructor
  · intro h l
    fin_cases l <;> simp_all [Part.identified, Quad.toList, Quad.get]
  · intro h
    simp only [Part.identified, Quad.toList, List.all_cons, List.all_nil, Bool.and_true, Bool.and_eq_true]
    exact ⟨h 0, h 1, h 2, h 3⟩

theorem Part.anyIdentified_iff (p : Part) : p.anyIdentified = true ↔
    ∃ l, (p.lane l).state = .present ∨ (p.lane l).state = .offline := by
  have hset : ∀ st : LaneState, st.inPresentSet = true ↔ st = .present ∨ st = .offline := fun st => by cases st <;> decide
  simp only [Part.anyIdentified, Quad.toList, List.any_cons, List.any_nil, Bool.or_false, Bool.or_eq_true, hset, Fin.exists_fin_succ]
  simp [Part.lane, Quad.get]

/-- All four IDENTIFYs ended and no lane identified: the mount ends FAILED and nothing more is asked for (R166, R173). -/
theorem Part.mountProgress_nothing {p : Part} (hstate : p.mount.state = .mounting) (hstep : p.mount.step = .identify)
    (hended : p.identified = true) (hnone : p.anyIdentified = false) : p.mountProgress = p.failMount 3 := by
  have hend : p.endIdentify = p.failMount 3 := by simp [Part.endIdentify, hstep, hended, hnone]
  have hover := p.failMount_step 3
  rw [Part.mountProgress, if_pos hstate, hend]
  simp only [hover]
  exact Part.placeMountAll_none (Part.mountOp_ended hover)

/-- All four IDENTIFYs ended and a lane identified: the header step begins (R166). -/
theorem Part.mountProgress_identified {p : Part} (hstate : p.mount.state = .mounting) (hstep : p.mount.step = .identify)
    (hended : p.identified = true) (hsome : p.anyIdentified = true) :
    p.mountProgress = Part.mountProgress { p with mount.step := .headers } := by
  have hend : p.endIdentify = { p with mount.step := .headers } := by simp [Part.endIdentify, hstep, hended, hsome]
  have hend' : Part.endIdentify { p with mount.step := .headers } = { p with mount.step := .headers } := rfl
  rw [Part.mountProgress, if_pos hstate, hend, Part.mountProgress, if_pos (by exact hstate), hend']

/-- The part with one lane's record, segment table and IDENTIFY changed. -/
def Part.withIdentified (l : Lane) (x : LaneRec) (segs : Quad (List SegEntry)) (p : Part) : Part := { p with
  lanes := p.lanes.set l x, segs := segs, mount.lanes := p.mount.lanes.set l { p.mount.lanes.get l with identEnded := true } }

/-- One of several IDENTIFYs answered: the other lanes' requests alone change beside it (R166). -/
theorem Part.withIdentified_outcome {p : Part} {l other : Lane} (x : LaneRec) (segs : Quad (List SegEntry))
    (hstate : p.mount.state = .mounting) (hstep : p.mount.step = .identify) (hother : other ≠ l)
    (hopen : (p.mount.lanes.get other).identEnded = false) {t : Part}
    (ht : t = (p.withIdentified l x segs).mountProgress.refreshErase) :
    (t.lane l).inFlight = x.inFlight ∧ (t.lane l).state = x.state ∧ (t.lane l).count = x.count
    ∧ (t.mount.lanes.get l).identEnded = true ∧ t.segs = segs ∧ (∀ k, k ≠ l → (t.lane k).state = (p.lane k).state)
    ∧ t.mem = p.mem ∧ t.orders = p.orders ∧ t.dir = p.dir ∧ t.head = p.head ∧ t.bus = p.bus ∧ t.reclaim = p.reclaim
    ∧ t.power = p.power := by
  have hprogress : (p.withIdentified l x segs).mountProgress = (p.withIdentified l x segs).placeMountAll :=
    Part.mountProgress_identifying (other := other) hstate hstep (by
      rw [Part.withIdentified, Quad.get_set_other _ _ hother, hopen])
  have hkept := (p.withIdentified l x segs).inside_placeMountAll
  have hlane : (p.withIdentified l x segs).lane l = x := Quad.get_set_same _ _ _
  rw [hprogress] at ht
  subst ht
  simp only [Part.refreshErase_frame, Part.refreshErase_lane_fields, Part.placeMountAll_frame]
  refine ⟨?_, (hkept.lanes l).fields.1.trans (by rw [hlane]), (hkept.lanes l).fields.2.1.trans (by rw [hlane]), ?_, rfl,
    fun k hk => (hkept.lanes k).fields.1.trans ?_, rfl, rfl, rfl, rfl, rfl, rfl, rfl⟩
  · rw [Part.placeMountAll_lane, Part.placeMount_flight, hlane]
  · rw [Part.withIdentified, Quad.get_set_same]
  · rw [show (p.withIdentified l x segs).lane k = p.lane k from Quad.get_set_other _ _ hk]

/-- Settles O33. -/
theorem identifyEnds : Obligations.IdentifyEnds := by
  unfold Obligations.IdentifyEnds
  refine ⟨fun s l other lo hi rq ms disc hlive hflight hstep hstate hother hopen => ?_, fun s l lo hi rq ms disc hlive hflight => ?_,
    fun p hstate hstep hended => ⟨fun hnone => ?_, fun hsome => ?_⟩⟩
  · intro count
    refine ⟨_, exec_identifyEnd l lo hi hlive, ?_⟩
    have hidle : ((s.part.landed l).lane l).inFlight = none := by
      rw [Part.lane_landed_same]
      exact (LaneRec.landed_fields _).1
    by_cases hin : 16 ≤ count ∧ count ≤ 1024
    · obtain ⟨hf, hst, hc, he, hsegs, hk, hrest⟩ := Part.withIdentified_outcome _ _ hstate hstep hother hopen
        (congrArg Part.refreshErase (Part.identifyEnds_present hflight hin.1 hin.2))
      refine ⟨hf.trans hidle, he, fun _ _ => ⟨hst, hc, ?_⟩, fun h => by omega, fun k hkl => ⟨hk k hkl, ?_⟩, hrest⟩
      · exact (congrArg (Quad.get · l) hsegs).trans (Quad.get_set_same _ _ _)
      · exact (congrArg (Quad.get · k) hsegs).trans (Quad.get_set_other _ _ hkl)
    · have hout : count < 16 ∨ 1024 < count := by omega
      obtain ⟨hf, hst, hc, he, hsegs, hk, hrest⟩ := Part.withIdentified_outcome _ _ hstate hstep hother hopen
        (congrArg Part.refreshErase (Part.identifyEnds_absent hflight hout))
      exact ⟨hf.trans hidle, he, fun h1 h2 => absurd ⟨h1, h2⟩ hin, fun _ => ⟨hst, hc, hsegs⟩,
        fun k hkl => ⟨hk k hkl, congrArg (Quad.get · k) hsegs⟩, hrest⟩
  · intro count r ended
    rw [exec_identifyEnd l lo hi hlive]
    exact ⟨fun hlo hhi => by rw [Part.identifyEnds_present hflight hlo hhi], fun hout => by rw [Part.identifyEnds_absent hflight hout]⟩
  · refine Part.mountProgress_nothing hstate hstep (p.identified_iff.2 hended) (Bool.eq_false_iff.2 fun h => ?_)
    obtain ⟨l, hl | hl⟩ := p.anyIdentified_iff.1 h
    · exact (hnone l).1 hl
    · exact (hnone l).2 hl
  · exact Part.mountProgress_identified hstate hstep (p.identified_iff.2 hended) (p.anyIdentified_iff.2 hsome)

end Sys2Proof.Machine
end

section
/-! SUPPORT. The end of a READ LINE for the record unit and for the reclaim unit's walk (R62, R65, R73, R120, R121, R152 to R154). -/

namespace Sys2Proof.Machine

/-! ## Lines reaching their requester -/

theorem exec_readLineEnd {s : State} (l : Lane) {bytes : List Byte} (hlive : s.part.live = true) (hlen : bytes.length = 256) :
    exec (.readLineEnd l bytes) s = .next (s.withPart (s.part.readEnds l bytes).refreshErase) := by
  rw [execReadLineEnd_of_length s hlen, run_act_live hlive]

theorem Part.readEnds_discarded {p : Part} {l : Lane} (bytes : List Byte) {rq : Requester} {seg line ms : Nat}
    (h : (p.lane l).inFlight = some ⟨rq, .readLine seg line, ms, true⟩) : p.readEnds l bytes = p.landed l := by
  simp only [Part.readEnds, h, if_true]

theorem Part.readEnds_delivered {p : Part} {l : Lane} (bytes : List Byte) {rq : Requester} {seg line ms : Nat}
    (h : (p.lane l).inFlight = some ⟨rq, .readLine seg line, ms, false⟩) :
    p.readEnds l bytes = (p.landed l).deliverLine rq l bytes := by
  simp only [Part.readEnds, h, Bool.false_eq_true, if_false]

/-- A read's end with nothing held back clears the operation alone. -/
theorem Part.landed_plain {p : Part} {l : Lane} (h : (p.lane l).heldBack = none) :
    p.landed l = p.setLane l { p.lane l with inFlight := none } := by
  rw [Part.landed, LaneRec.landed_eq h]
  simp only [← h]

/-- A request held back for a discarded result waits from the result's coming on (R65). -/
theorem Part.landed_heldBack {p : Part} {l : Lane} {rq : Requester} {op : StoreOp} {ms : Nat} {q : Request}
    (hrq : rq ∈ [Requester.record, .scan, .reclaim]) (hflight : (p.lane l).inFlight = some ⟨rq, op, ms, true⟩)
    (hheld : (p.lane l).heldBack = some q) : p.landed l = p.setLane l
      { p.lane l with inFlight := none, heldBack := none, waiting := (p.lane l).waiting.set rq (some q) } := by
  have hmay : rq.mayDiscard = true := by
    simp only [List.mem_cons, List.not_mem_nil, or_false] at hrq
    rcases hrq with rfl | rfl | rfl <;> rfl
  have hdiscards : (p.lane l).discards rq = true := by simp [LaneRec.discards, hmay, hflight]
  rw [Part.landed]
  simp only [LaneRec.landed, hflight, hheld, hdiscards, if_true]

theorem Part.landed_present (p : Part) (l k : Lane) : (p.landed l).present k = p.present k := by
  by_cases h : k = l
  · subst h
    simp only [Part.present, Part.lane_landed_same, LaneRec.landed_fields]
  · simp only [Part.present, Part.lane_landed_other _ h]

/-! ## The payload check (R5) -/

theorem PayloadRun.ok_iff (r : PayloadRun) : r.ok = true ↔ r.stored = leBytes 4 (~~~ r.crc).toNat := by
  rw [PayloadRun.ok, beq_iff_eq, eq_comm]
  rfl

theorem PayloadRun.feed_eq (r : PayloadRun) (length j : Nat) (bytes : List Byte) : r.feed length j bytes =
    ⟨crc32Feed r.crc (payloadOf length j bytes), r.stored ++ (bytes.drop (16 + length - 256 * j)).take
      (16 + length + 4 - (256 * j + (16 + length - 256 * j)))⟩ := rfl

/-! ## GET (R120, R121) -/

theorem headerAgrees_iff (e : DirEntry) (epoch : Long) (bytes : List Byte) :
    headerAgrees e epoch (readHeader bytes) = true ↔ recordAgrees e epoch bytes := by
  simp [headerAgrees, recordAgrees, flagsOk, epochTag, and_assoc]

theorem Part.getLine_reading {p : Part} {o : RecordOrder} {g : GetRead} (bytes : List Byte) (ho : p.record = some o)
    (hg : o.step = .reading g) : p.getLine bytes =
      if g.next = 0 ∧ headerCheckOk bytes = false then p.endGet g (faultResult .headerCheck)
      else if g.next = 0 ∧ headerAgrees g.entry (p.seg g.entry.loc.addr).epoch (readHeader bytes) = false then
        p.endGet g (faultResult .staleTag)
      else p.getPayload o g bytes := by
  simp only [Part.getLine, ho, hg]

theorem Part.getLine_judged {p : Part} {o : RecordOrder} {g : GetRead} {bytes : List Byte} (ho : p.record = some o)
    (hg : o.step = .reading g)
    (hjudged : 0 < g.next ∨ (headerCheckOk bytes = true ∧ recordAgrees g.entry (p.seg g.entry.loc.addr).epoch bytes)) :
    p.getLine bytes = p.getPayload o g bytes := by
  rw [Part.getLine_reading bytes ho hg]
  rcases hjudged with hnext | ⟨hcheck, hagrees⟩
  · rw [if_neg (by omega), if_neg (by omega)]
  · rw [if_neg (by simp [hcheck]), if_neg (by simp [(headerAgrees_iff _ _ _).2 hagrees])]

/-- An end finds the order's slot whatever step the order stands at. -/
theorem Part.endGet_step {p : Part} {o : RecordOrder} (st : RecordStep) {g g' : GetRead} (r : Result) (ho : p.record = some o)
    (hholds : g'.holds = g.holds) (hentry : g'.entry = g.entry) :
    Part.endGet g' r { p with record := some { o with step := st } } = p.endGet g r := by
  have hrecord : (p.releaseReader g.holds).record = some o := ho
  simp only [Part.endGet, Part.finishRecord, hholds, hentry]
  rw [hrecord]
  rfl

/-- The walk position a GET stands at once its line has been taken. -/
def GetRead.past (bytes : List Byte) (g : GetRead) : GetRead := { g with
  next := g.next + 1, delivered := g.delivered + (payloadOf g.entry.length g.next bytes).length,
  run := g.run.feed g.entry.length g.next bytes }

/-- A GET's payload bytes of a line in their place in the buffer. -/
def Part.getStored (o : RecordOrder) (g : GetRead) (bytes : List Byte) (p : Part) : Part :=
  p.store (o.fields.bufOffset.toNat + payloadStart g.next) (payloadOf g.entry.length g.next bytes)

theorem Part.getPayload_last {p : Part} (o : RecordOrder) {g : GetRead} (bytes : List Byte) (h : g.entry.lines ≤ g.next + 1) :
    p.getPayload o g bytes = (p.getStored o g bytes).endGet g
      (if (g.run.feed g.entry.length g.next bytes).ok then okResult else faultResult .dataCheck) := by
  simp only [Part.getPayload, if_pos h]
  rfl

theorem Part.getPayload_next {p : Part} {o : RecordOrder} {g : GetRead} (bytes : List Byte) (ho : p.record = some o)
    (h : g.next + 1 < g.entry.lines) : p.getPayload o g bytes =
      if p.present g.entry.loc.addr.lane then Part.place g.entry.loc.addr.lane .record
          ⟨.readLine g.entry.loc.addr.seg (g.entry.loc.line + (g.next + 1)), false⟩
          { p.getStored o g bytes with record := some { o with step := .reading (g.past bytes) } }
      else (p.getStored o g bytes).endGet g (faultResult .laneOffline) := by
  have hrecord : (p.getStored o g bytes).record = some o := ho
  have hread : ∀ q : Part, q.record = some o → q.readGet (g.past bytes) =
      if q.present g.entry.loc.addr.lane then Part.place g.entry.loc.addr.lane .record
          ⟨.readLine g.entry.loc.addr.seg (g.entry.loc.line + (g.next + 1)), false⟩
          { q with record := some { o with step := .reading (g.past bytes) } }
      else q.endGet g (faultResult .laneOffline) := fun q hq => by
    have hend := Part.endGet_step (.reading (g.past bytes)) (g := g) (g' := g.past bytes) (faultResult .laneOffline) hq rfl rfl
    simp only [Part.readGet, hq, Option.map_some]
    rw [← hend]
    rfl
  have hmore : ¬ g.entry.lines ≤ g.next + 1 := by omega
  simp only [Part.getPayload, if_neg hmore]
  exact hread _ hrecord

/-- Settles O34. -/
theorem readLineEndsGet : Obligations.ReadLineEndsGet := by
  unfold Obligations.ReadLineEndsGet
  refine ⟨fun s l bytes seg line ms rq hlive hlen hflight => ?_,
    fun p l => ⟨Part.landed_plain, fun rq op ms q => Part.landed_heldBack⟩,
    fun r => ⟨r.ok_iff, rfl, r.feed_eq⟩, fun length j bytes => ⟨rfl, rfl⟩,
    fun s l bytes seg line ms o g hlive hlen hflight ho hg => ?_⟩
  · rw [exec_readLineEnd l hlive hlen, Part.readEnds_discarded bytes hflight]
  · intro p a agrees judged payload stored run answers ends
    have hexec : ∀ r : Part, p.getLine bytes = r → answers r := fun r hr => by
      show exec _ s = _
      rw [exec_readLineEnd l hlive hlen, Part.readEnds_delivered bytes hflight, ← hr]
      rfl
    have hjudge : judged → p.getLine bytes = p.getPayload o g bytes := Part.getLine_judged (p := p) ho hg
    refine ⟨fun hnext hcheck => hexec _ ?_, fun hnext hcheck hagrees => hexec _ ?_, fun hj hlast => hexec _ ?_,
      fun hj hmore => ⟨fun hpresent => hexec _ ?_, fun hpresent => hexec _ ?_⟩⟩
    · rw [Part.getLine_reading (p := p) bytes ho hg, if_pos ⟨hnext, hcheck⟩]
      rfl
    · rw [Part.getLine_reading (p := p) bytes ho hg, if_neg (by simp [hcheck]),
        if_pos ⟨hnext, Bool.eq_false_iff.2 fun h => hagrees ((headerAgrees_iff _ _ _).1 h)⟩]
      rfl
    · rw [hjudge hj, Part.getPayload_last o bytes hlast]
      rfl
    · rw [hjudge hj, Part.getPayload_next (p := p) bytes ho hmore, if_pos (by rw [Part.landed_present]; exact hpresent)]
      rfl
    · rw [hjudge hj, Part.getPayload_next (p := p) bytes ho hmore,
        if_neg (by rw [Part.landed_present]; exact Bool.eq_false_iff.1 hpresent)]
      rfl

/-! ## The reclaim walk (R152 to R154) -/

theorem Part.walkLine_header {p : Part} {t : SegAddr} (bytes : List Byte) (ht : p.reclaim.tail = some t)
    (hh : p.reclaim.inHand = none) : p.walkLine bytes = p.walkHeader t bytes := by
  simp only [Part.walkLine, ht, hh]

theorem Part.walkLine_further {p : Part} {t : SegAddr} {h : Hand} (bytes : List Byte) (ht : p.reclaim.tail = some t)
    (hh : p.reclaim.inHand = some h) : p.walkLine bytes = p.walkFurther t h bytes := by
  simp only [Part.walkLine, ht, hh]

theorem dirClaim_none {d : List DirEntry} {key : Long} {loc : RecLoc} (h : ∀ x, dirLookup d key = some x → x.loc ≠ loc) :
    dirClaim d key loc = none := by
  unfold dirClaim
  cases hx : dirLookup d key with
  | none => rfl
  | some x => simp [h x hx]

theorem dirClaim_some {d : List DirEntry} {key : Long} {loc : RecLoc} {x : DirEntry} (h : dirLookup d key = some x)
    (hloc : x.loc = loc) : dirClaim d key loc = some x := by
  simp [dirClaim, h, hloc]

theorem Part.submitCopy_inHand {p : Part} {t : SegAddr} {h : Hand} (ht : p.reclaim.tail = some t)
    (hh : p.reclaim.inHand = some h) : p.submitCopy = { p with head.copyReq := some (copyOf t h), reclaim.copyWait := false } := by
  simp only [Part.submitCopy, ht, hh]

/-- A line at which the walk of a tail goes on: not blank, and header-valid (R9, R152). -/
def Part.walkGood (p : Part) (t : SegAddr) (bytes : List Byte) : Prop :=
  blankLine bytes = false ∧ headerValid (p.seg t).epoch p.reclaim.pos bytes = true

theorem Part.walkHeader_unclaimed {p : Part} {t : SegAddr} {bytes : List Byte} (hgood : p.walkGood t bytes)
    (hclaim : dirClaim p.dir (readHeader bytes).key ⟨t, p.reclaim.pos⟩ = none) :
    p.walkHeader t bytes = p.moveOn (lineCount (readHeader bytes).length) := by
  obtain ⟨hblank, hvalid⟩ := hgood
  simp only [Part.walkHeader, hblank, hvalid, Bool.not_true, Bool.or_self, Bool.false_eq_true, if_false, hclaim]

theorem Part.walkHeader_gone {p : Part} {t : SegAddr} {bytes : List Byte} {e : DirEntry} (hgood : p.walkGood t bytes)
    (hclaim : dirClaim p.dir (readHeader bytes).key ⟨t, p.reclaim.pos⟩ = some e) (hgone : e.gone = true) :
    p.walkHeader t bytes = (p.dirDrop (readHeader bytes).key t).moveOn (lineCount (readHeader bytes).length) := by
  obtain ⟨hblank, hvalid⟩ := hgood
  simp only [Part.walkHeader, hblank, hvalid, Bool.not_true, Bool.or_self, Bool.false_eq_true, if_false, hclaim, hgone, if_true]

theorem Part.walkHeader_live {p : Part} {t : SegAddr} {bytes : List Byte} {e : DirEntry} (hgood : p.walkGood t bytes)
    (hclaim : dirClaim p.dir (readHeader bytes).key ⟨t, p.reclaim.pos⟩ = some e) (hgone : e.gone = false) :
    let taken : Part := { p with
      reclaim.inHand := some ⟨readHeader bytes, p.reclaim.pos, lineCount (readHeader bytes).length, 1, bytes⟩ }
    p.walkHeader t bytes =
      if lineCount (readHeader bytes).length ≤ 1 then taken.submitCopy else taken.readTail t (p.reclaim.pos + 1) := by
  obtain ⟨hblank, hvalid⟩ := hgood
  simp only [Part.walkHeader, hblank, hvalid, Bool.not_true, Bool.or_self, Bool.false_eq_true, if_false, hclaim, hgone]

theorem Part.walkHeader_broken {p : Part} {t : SegAddr} {bytes : List Byte}
    (hbroken : ¬ p.walkGood t bytes)
    (hclaimed : 0 < (p.seg t).claimed) : p.walkHeader t bytes = p.haltReclaim := by
  have hstops : (blankLine bytes || !headerValid (p.seg t).epoch p.reclaim.pos bytes) = true := by
    rw [Part.walkGood] at hbroken
    cases hb : blankLine bytes <;> simp_all
  have hne : ¬ (p.seg t).claimed = 0 := by omega
  simp only [Part.walkHeader, hstops, if_true, Part.walkStops, if_neg hne]

/-- Settles O35. -/
theorem readLineEndsWalk : Obligations.ReadLineEndsWalk := by
  unfold Obligations.ReadLineEndsWalk
  refine ⟨fun s l bytes seg line ms a hlive hlen hflight ht hh => ?_, fun s l bytes seg line ms a h hlive hlen hflight ht hh => ?_⟩
  · intro p n h k good
    have hexec : ∀ r : Part, p.walkHeader a bytes = r →
        exec (.readLineEnd l bytes) s = .next (s.withPart r.refreshErase) := fun r hr => by
      rw [exec_readLineEnd l hlive hlen, Part.readEnds_delivered bytes hflight, ← hr]
      exact congrArg (fun x : Part => Host.Outcome.next (s.withPart x.refreshErase)) (Part.walkLine_header (p := p) bytes ht hh)
    refine ⟨fun hbroken hclaimed => hexec _ (Part.walkHeader_broken (p := p) hbroken hclaimed), fun hgood hunclaimed => hexec _ ?_,
      fun x hgood hx hloc => ⟨fun hgone => hexec _ ?_, fun hlive hk => hexec _ ?_, fun hlive hk => hexec _ ?_⟩⟩
    · exact Part.walkHeader_unclaimed (p := p) hgood (dirClaim_none hunclaimed)
    · exact Part.walkHeader_gone (p := p) hgood (dirClaim_some hx hloc) hgone
    · rw [Part.walkHeader_live (p := p) hgood (dirClaim_some hx hloc) hlive, if_neg (Nat.not_le.2 hk)]
      rfl
    · rw [Part.walkHeader_live (p := p) hgood (dirClaim_some hx hloc) hlive, if_pos hk, Part.submitCopy_inHand (by exact ht) rfl]
      rfl
  · intro p all
    have hexec : ∀ r : Part, p.walkFurther a h bytes = r →
        exec (.readLineEnd l bytes) s = .next (s.withPart r.refreshErase) := fun r hr => by
      rw [exec_readLineEnd l hlive hlen, Part.readEnds_delivered bytes hflight, ← hr]
      exact congrArg (fun x : Part => Host.Outcome.next (s.withPart x.refreshErase)) (Part.walkLine_further (p := p) bytes ht hh)
    refine ⟨fun hmore => hexec _ ?_, fun hlast => hexec _ ?_⟩
    · have hmore' : ¬ h.lines ≤ h.got + 1 := Nat.not_le.2 hmore
      simp only [Part.walkFurther, if_neg hmore']
      rfl
    · simp only [Part.walkFurther, if_pos hlast]
      rw [Part.submitCopy_inHand (by exact ht) rfl]
      rfl

end Sys2Proof.Machine
end

section
/-! SUPPORT. The comparison of a scan and the end of a READ LINE for the scan unit (R138, R140 to R143, R147). -/

namespace Sys2Proof.Machine

/-! ## The comparison (R142) -/

theorem compareBytes_cons (x y : Byte) (xs ys : List Byte) : compareBytes (x :: xs) (y :: ys) =
    if x < y then .lt else if y < x then .gt else compareBytes xs ys := rfl

theorem compareBytes_nil_left (ys : List Byte) : compareBytes [] ys = .eq := by cases ys <;> rfl

theorem compareBytes_nil_right (xs : List Byte) : compareBytes xs [] = .eq := by cases xs <;> rfl

theorem compareBytes_self_cons (x : Byte) (xs ys : List Byte) : compareBytes (x :: xs) (x :: ys) = compareBytes xs ys := by
  rw [compareBytes_cons, if_neg (BitVec.lt_irrefl x), if_neg (BitVec.lt_irrefl x)]

theorem byte_trichotomy (x y : Byte) : x < y ∨ x = y ∨ (y < x ∧ ¬ x < y) := by
  rcases Nat.lt_trichotomy x.toNat y.toNat with h | h | h
  · exact .inl (BitVec.lt_def.2 h)
  · exact .inr (.inl (BitVec.eq_of_toNat_eq h))
  · exact .inr (.inr ⟨BitVec.lt_def.2 h, fun hlt => Nat.lt_asymm h (BitVec.lt_def.1 hlt)⟩)

theorem compareBytes_eq_iff : ∀ xs ys : List Byte, xs.length = ys.length → (compareBytes xs ys = .eq ↔ xs = ys)
  | [], [], _ => by simp [compareBytes]
  | x :: xs, y :: ys, h => by
    have ih := compareBytes_eq_iff xs ys (Nat.succ.inj h)
    rcases byte_trichotomy x y with hlt | rfl | ⟨hgt, hnot⟩
    · have hne : x ≠ y := fun he => BitVec.lt_irrefl x (he ▸ hlt)
      simp [compareBytes_cons, hlt, hne]
    · simp [compareBytes_self_cons, ih]
    · have hne : x ≠ y := fun he => BitVec.lt_irrefl x (he ▸ hgt)
      simp [compareBytes_cons, hgt, hne, hnot]

/-- The first bytes that differ decide, the smaller one the lower. -/
theorem compareBytes_lt_iff : ∀ xs ys : List Byte, xs.length = ys.length → (compareBytes xs ys = .lt ↔
    ∃ (i : Nat) (x y : Byte), xs.take i = ys.take i ∧ xs[i]? = some x ∧ ys[i]? = some y ∧ x.toNat < y.toNat)
  | [], [], _ => by simp [compareBytes]
  | x :: xs, y :: ys, h => by
    have ih := compareBytes_lt_iff xs ys (Nat.succ.inj h)
    rcases byte_trichotomy x y with hlt | rfl | ⟨hgt, hnot⟩
    · rw [compareBytes_cons, if_pos hlt]
      exact ⟨fun _ => ⟨0, x, y, rfl, rfl, rfl, BitVec.lt_def.1 hlt⟩, fun _ => rfl⟩
    · rw [compareBytes_self_cons, ih]
      constructor
      · rintro ⟨i, a, b, htake, ha, hb, hab⟩
        exact ⟨i + 1, a, b, by simp [htake], by simpa using ha, by simpa using hb, hab⟩
      · rintro ⟨i, a, b, htake, ha, hb, hab⟩
        cases i with
        | zero =>
          simp only [List.getElem?_cons_zero, Option.some.injEq] at ha hb
          subst ha hb
          exact absurd hab (Nat.lt_irrefl _)
        | succ i => exact ⟨i, a, b, by simpa using htake, by simpa using ha, by simpa using hb, hab⟩
    · rw [compareBytes_cons, if_neg hnot, if_pos hgt]
      refine ⟨fun h => by simp at h, ?_⟩
      rintro ⟨i, a, b, htake, ha, hb, hab⟩
      have hgt' := BitVec.lt_def.1 hgt
      cases i with
      | zero =>
        simp only [List.getElem?_cons_zero, Option.some.injEq] at ha hb
        subst ha hb
        omega
      | succ i =>
        simp only [List.take_succ_cons, List.cons.injEq] at htake
        rw [htake.1] at hgt'
        omega

/-- A comparison goes on after a part that did not decide. -/
theorem compareBytes_append : ∀ xs ys ps : List Byte, compareBytes (xs ++ ys) ps =
    (compareBytes xs ps).then (compareBytes ys (ps.drop xs.length))
  | [], ys, ps => by simp [compareBytes_nil_left]
  | x :: xs, ys, [] => by simp [compareBytes_nil_right]
  | x :: xs, ys, p :: ps => by
    simp only [List.cons_append, compareBytes_cons, List.length_cons, List.drop_succ_cons]
    split
    · rfl
    · split
      · rfl
      · exact compareBytes_append xs ys ps

theorem OrderFields.compareLine_eq (f : OrderFields) (j : Nat) (payload : List Byte) (c : Ordering) :
    f.compareLine j payload c = c.then (compareBytes
      ((payload.drop (f.cmpOffset.toNat - payloadStart j)).take
        (f.cmpOffset.toNat + f.patLength.toNat - max f.cmpOffset.toNat (payloadStart j)))
      ((f.pattern.take f.patLength.toNat).drop (payloadStart j - f.cmpOffset.toNat))) := by
  cases c <;> rfl

/-- The bytes of a compare field in one line of a payload: those of the whole field from the line's start to its end. -/
theorem fieldInLine (payload : List Byte) (co pl j : Nat) (hfield : co + pl ≤ payload.length) :
    ((((payload.drop (payloadStart j)).take (payloadCount payload.length j)).drop (co - payloadStart j)).take
      (co + pl - max co (payloadStart j)))
    = ((((payload.drop co).take pl).take (payloadStart (j + 1) - co)).drop (payloadStart j - co)) := by
  have hend : payloadStart (j + 1) = payloadStart j + (if j = 0 then 240 else 256) := by
    simp only [payloadStart, lineLength, recordHeaderSize]
    split <;> omega
  have hcount : payloadCount payload.length j = min (payload.length - payloadStart j) (payloadStart (j + 1) - payloadStart j) := by
    rw [payloadCount, hend, Nat.add_sub_cancel_left]
    rfl
  rw [hcount]
  generalize payloadStart j = a at *
  generalize payloadStart (j + 1) = b at *
  have hab : a ≤ b := by omega
  apply List.ext_getElem?
  intro i
  simp only [List.getElem?_take, List.getElem?_drop]
  have hindex : a + (co - a + i) = co + (a - co + i) := by omega
  rw [hindex]
  simp only [← ite_and]
  exact if_congr (by omega) rfl rfl

/-- Line by line up to a line, the comparison is that of the field's bytes below the line's start. -/
theorem compareLines_prefix (f : OrderFields) (payload : List Byte) (hfield : f.cmpOffset.toNat + f.patLength.toNat ≤ payload.length)
    (n : Nat) : (List.range n).foldl (fun c j => f.compareLine j
        ((payload.drop (payloadStart j)).take (payloadCount payload.length j)) c) .eq
      = compareBytes (((payload.drop f.cmpOffset.toNat).take f.patLength.toNat).take (payloadStart n - f.cmpOffset.toNat))
          (f.pattern.take f.patLength.toNat) := by
  induction n with
  | zero => simp [payloadStart, compareBytes_nil_left]
  | succ n ih =>
    rw [List.range_succ, List.foldl_append, ih]
    simp only [List.foldl_cons, List.foldl_nil]
    rw [OrderFields.compareLine_eq, fieldInLine payload _ _ n hfield]
    have hmono : payloadStart n ≤ payloadStart (n + 1) := by
      simp only [payloadStart, lineLength, recordHeaderSize]
      omega
    generalize payloadStart n = a at hmono ⊢
    generalize payloadStart (n + 1) = b at hmono ⊢
    have hlength : ((payload.drop f.cmpOffset.toNat).take f.patLength.toNat).length = f.patLength.toNat := by
      simp only [List.length_take, List.length_drop]
      omega
    have hpattern : (f.pattern.take f.patLength.toNat).length ≤ f.patLength.toNat := List.length_take_le _ _
    generalize (payload.drop f.cmpOffset.toNat).take f.patLength.toNat = field at hlength ⊢
    generalize f.pattern.take f.patLength.toNat = pattern at hpattern ⊢
    have hdrop : pattern.drop (a - f.cmpOffset.toNat) = pattern.drop (field.take (a - f.cmpOffset.toNat)).length := by
      rw [List.length_take, hlength]
      rcases Nat.le_total (a - f.cmpOffset.toNat) f.patLength.toNat with h | h
      · rw [Nat.min_eq_left h]
      · rw [Nat.min_eq_right h, List.drop_eq_nil_of_le hpattern, List.drop_eq_nil_of_le (hpattern.trans h)]
    rw [hdrop, ← compareBytes_append]
    have htake : field.take (a - f.cmpOffset.toNat) = (field.take (b - f.cmpOffset.toNat)).take (a - f.cmpOffset.toNat) := by
      rw [List.take_take, Nat.min_eq_left (by omega)]
    rw [htake, List.take_append_drop]

theorem compareLines_whole (f : OrderFields) (payload : List Byte) (hfield : f.cmpOffset.toNat + f.patLength.toNat ≤ payload.length) :
    (List.range (lineCount payload.length)).foldl (fun c j => f.compareLine j
        ((payload.drop (payloadStart j)).take (payloadCount payload.length j)) c) .eq
      = compareBytes ((payload.drop f.cmpOffset.toNat).take f.patLength.toNat) (f.pattern.take f.patLength.toNat) := by
  have hend : payload.length ≤ payloadStart (lineCount payload.length) := by
    simp only [payloadStart, lineCount, lineLength, recordHeaderSize]
    omega
  rw [compareLines_prefix f payload hfield, List.take_of_length_le]
  simp only [List.length_take, List.length_drop]
  omega

theorem modeHit_table (c : Ordering) : (modeHit 1 c = true ↔ c = .eq) ∧ (modeHit 2 c = true ↔ c ≠ .lt)
    ∧ (modeHit 3 c = true ↔ c ≠ .gt) ∧ (modeHit 4 c = true ↔ c ≠ .eq) := by
  cases c <;> decide

/-! ## The lines of the entry in hand (R140, R141) -/

/-- The entry in hand once its record's header has been judged. -/
def ScanHand.judgedBy (bytes : List Byte) (h : ScanHand) : ScanHand := { h with
  headerJudged := true, readSequence := if h.headerJudged then h.readSequence else (readHeader bytes).sequence }

/-- The entry in hand once its next line has been taken. -/
def ScanHand.past (f : OrderFields) (bytes : List Byte) (h : ScanHand) : ScanHand := { h.judgedBy bytes with
  next := h.next + 1, run := h.run.feed h.entry.length h.next bytes,
  compare := f.compareLine h.next (payloadOf h.entry.length h.next bytes) h.compare }

/-- The header of the record in hand is known to agree, or agrees as this line shows. -/
def Part.scanJudged (p : Part) (h : ScanHand) (bytes : List Byte) : Prop :=
  h.headerJudged = true ∨ (headerCheckOk bytes = true ∧ recordAgrees h.entry (p.seg h.entry.loc.addr).epoch bytes)

theorem Part.scanLine_judged {p : Part} {o : ScanOrder} {h : ScanHand} {bytes : List Byte} (ho : p.scan = some o)
    (hh : o.inHand = some h) (hjudged : p.scanJudged h bytes) : p.scanLine bytes = p.scanPayload o (h.judgedBy bytes) bytes := by
  simp only [Part.scanLine, ho, hh]
  split
  · next hj =>
    have hsame : h.judgedBy bytes = h := by rw [ScanHand.judgedBy, if_pos hj, ← hj]
    rw [hsame]
  · next hj =>
    obtain ⟨hcheck, hagrees⟩ := hjudged.resolve_left hj
    rw [if_pos (by simp [hcheck, (headerAgrees_iff _ _ _).2 hagrees])]
    simp only [ScanHand.judgedBy, if_neg hj]

theorem Part.scanLine_unjudged {p : Part} {o : ScanOrder} {h : ScanHand} {bytes : List Byte} (ho : p.scan = some o)
    (hh : o.inHand = some h) (hjudged : ¬ p.scanJudged h bytes) : p.scanLine bytes = p.scanDamaged o h := by
  obtain ⟨hj, hagrees⟩ := not_or.1 hjudged
  simp only [Part.scanLine, ho, hh, if_neg hj]
  refine if_neg fun h => hagrees ?_
  rw [Bool.and_eq_true, headerAgrees_iff] at h
  exact h

theorem Part.scanBoundary_inHand {p : Part} {o : ScanOrder} (ho : p.scan = some o) (hh : o.inHand.isSome = true) :
    p.scanBoundary = p := by
  simp only [Part.scanBoundary, ho, hh, if_true]

theorem Part.scanPayload_next {p : Part} (o : ScanOrder) {h : ScanHand} (bytes : List Byte) (hmore : h.next + 1 < h.entry.lines) :
    p.scanPayload o (h.judgedBy bytes) bytes =
      if p.present h.entry.loc.addr.lane then Part.place h.entry.loc.addr.lane .scan
          ⟨.readLine h.entry.loc.addr.seg (h.entry.loc.line + (h.next + 1)), false⟩
          { p with scan := some { o with inHand := some (h.past o.fields bytes) } }
      else p.scanDamaged o h := by
  have hnot : ¬ (h.judgedBy bytes).entry.lines ≤ (h.judgedBy bytes).next + 1 := Nat.not_le.2 hmore
  simp only [Part.scanPayload, if_neg hnot]
  show (p.readScan o (h.past o.fields bytes)).scanBoundary = _
  unfold Part.readScan
  by_cases hpresent : p.present h.entry.loc.addr.lane = true
  · rw [if_pos hpresent, if_pos (by exact hpresent)]
    exact Part.scanBoundary_inHand rfl rfl
  · rw [if_neg hpresent, if_neg (by exact hpresent)]
    rfl

theorem Part.scanPayload_last {p : Part} (o : ScanOrder) {h : ScanHand} (bytes : List Byte) (hlast : h.entry.lines ≤ h.next + 1) :
    p.scanPayload o (h.judgedBy bytes) bytes = p.scanDecide o (h.past o.fields bytes) := by
  have hall : (h.judgedBy bytes).entry.lines ≤ (h.judgedBy bytes).next + 1 := hlast
  simp only [Part.scanPayload, if_pos hall]
  rfl

/-- A record's comparison answers its scan (R142). -/
def ScanOrder.answered (o : ScanOrder) (h : ScanHand) : Prop :=
  o.fields.cmpOffset.toNat + o.fields.patLength.toNat ≤ h.entry.length ∧ modeHit o.fields.mode h.compare = true

theorem ScanOrder.answered_iff (o : ScanOrder) (h : ScanHand) :
    (!o.fields.fieldBeyond h.entry.length && modeHit o.fields.mode h.compare) = true ↔ o.answered h := by
  simp [OrderFields.fieldBeyond, ScanOrder.answered]

theorem Part.scanDecide_damaged {p : Part} (o : ScanOrder) {h : ScanHand} (hrun : h.run.ok = false) :
    p.scanDecide o h = p.scanDamaged o h := by
  simp only [Part.scanDecide, hrun, Bool.not_false, if_true]

theorem Part.scanDecide_miss {p : Part} {o : ScanOrder} {h : ScanHand} (hrun : h.run.ok = true) (hmiss : ¬ o.answered h) :
    p.scanDecide o h = Part.scanBoundary { p.releaseReader h.holds with scan := some { o with
      examined := min 65535 (o.examined + 1), cursor := h.entry.key + 1, inHand := none } } := by
  simp only [Part.scanDecide, hrun, Bool.not_true, Bool.false_eq_true, if_false, if_neg (mt (o.answered_iff h).1 hmiss)]
  rfl

theorem Part.scanDecide_hit {p : Part} {o : ScanOrder} {h : ScanHand} (hrun : h.run.ok = true) (hhit : o.answered h)
    (hroom : o.hits < o.fields.bufLength.toNat / 8) : p.scanDecide o h = Part.scanBoundary
      { (p.releaseReader h.holds).store (o.fields.bufOffset.toNat + 8 * o.hits) (scanEntryBytes h.entry.key h.readSequence) with
        scan := some { o with
          examined := min 65535 (o.examined + 1), cursor := h.entry.key + 1, inHand := none, hits := o.hits + 1 } } := by
  have hroom' : o.hits < o.fields.capacity := hroom
  simp only [Part.scanDecide, hrun, Bool.not_true, Bool.false_eq_true, if_false, if_pos ((o.answered_iff h).2 hhit), Part.scanHit,
    if_pos hroom']
  rfl

theorem Part.scanDecide_full {p : Part} {o : ScanOrder} {h : ScanHand} (hrun : h.run.ok = true) (hhit : o.answered h)
    (hfull : o.fields.bufLength.toNat / 8 ≤ o.hits) : p.scanDecide o h =
      Part.endScan { o with inHand := none } (partialResult .areaFull) h.entry.key (p.releaseReader h.holds) := by
  have hfull' : ¬ o.hits < o.fields.capacity := Nat.not_lt.2 hfull
  simp only [Part.scanDecide, hrun, Bool.not_true, Bool.false_eq_true, if_false, if_pos ((o.answered_iff h).2 hhit), Part.scanHit,
    if_neg hfull']
  exact Part.scanBoundary_none (Part.endScan_scan _ _ _ _)

/-- Settles O36, the lines of a scan's entry by whether its record is known to agree, and the comparison by induction on the lines. -/
theorem readLineEndsScan : Obligations.ReadLineEndsScan := by
  unfold Obligations.ReadLineEndsScan
  refine ⟨⟨fun xs ys h => ⟨compareBytes_eq_iff xs ys h, compareBytes_lt_iff xs ys h⟩, modeHit_table,
    fun f payload _ _ hfield => compareLines_whole f payload hfield⟩,
    fun s l bytes seg line ms o h hlive hlen hflight ho hh => ?_⟩
  intro p q a judged sequence run c hit passed answers damaged
  have hexec : ∀ r : Part, p.scanLine bytes = r → answers r := fun r hr => by
    show exec _ s = _
    rw [exec_readLineEnd l hlive hlen, Part.readEnds_delivered bytes hflight, ← hr]
    rfl
  have hpayload : judged → p.scanLine bytes = p.scanPayload o (h.judgedBy bytes) bytes := Part.scanLine_judged (p := p) ho hh
  have hlast : judged → h.entry.lines ≤ h.next + 1 → p.scanLine bytes = p.scanDecide o (h.past o.fields bytes) :=
    fun hj hlines => (hpayload hj).trans (Part.scanPayload_last o bytes hlines)
  refine ⟨fun hj => hexec _ (Part.scanLine_unjudged (p := p) ho hh hj),
    fun hj hmore => ⟨fun hpresent => hexec _ ?_, fun hpresent => hexec _ ?_⟩,
    fun hj hlines => ⟨fun hrun => hexec _ ?_, fun hrun hmiss => hexec _ ?_, fun hrun hhit hroom => hexec _ ?_, fun hrun hhit hfull => hexec _ ?_⟩⟩
  · rw [hpayload hj, Part.scanPayload_next o bytes hmore, if_pos (by rw [Part.landed_present]; exact hpresent)]
    rfl
  · rw [hpayload hj, Part.scanPayload_next o bytes hmore, if_neg (by rw [Part.landed_present]; exact Bool.eq_false_iff.1 hpresent)]
    rfl
  · rw [hlast hj hlines, Part.scanDecide_damaged o (by exact hrun)]
    rfl
  · exact (hlast hj hlines).trans (Part.scanDecide_miss (by exact hrun) hmiss)
  · exact (hlast hj hlines).trans (Part.scanDecide_hit (by exact hrun) hhit hroom)
  · exact (hlast hj hlines).trans (Part.scanDecide_full (by exact hrun) hhit hfull)

end Sys2Proof.Machine
end

section
/-! SUPPORT. The header step of mount: its lines, its requests, its end, and the lanes lost in it (R6, R10, R166 to R168, R171). -/

namespace Sys2Proof.Machine

/-! ## The mount engine's requests -/

theorem Part.placeMountAll_rest (p : Part) : { p.placeMountAll with lanes := p.lanes } = p := by
  have hframe := p.placeMountAll_frame
  generalize p.placeMountAll = q at hframe
  obtain ⟨h1, h2, h3, h4, h5, h6, h7, h8, h9, h10, h11, h12, h13, h14, h15, h16, h17⟩ := hframe
  simp only [h1, h2, h3, h4, h5, h6, h7, h8, h9, h10, h11, h12, h13, h14, h15, h16, h17]

/-- No request of the mount engine's is placed on a lane: in PARK and STOPPED, and while one waits or is in flight (R65, R175). -/
def Part.mountBusy (p : Part) (l : Lane) : Prop :=
  p.power.state = .park ∨ p.power.state = .stopped ∨ (p.lane l).waiting.mount ≠ none ∨ (p.lane l).flier = some .mount

theorem Part.placeMount_busy {p : Part} {l : Lane} (h : p.mountBusy l) : p.placeMount l = p := by
  unfold Part.placeMount
  split
  · rfl
  · refine if_pos ?_
    rwa [Option.isSome_iff_ne_none]

theorem Part.placeMount_lane {p : Part} {l : Lane} {op : StoreOp} (hop : p.mountOp l = some op) (h : ¬ p.mountBusy l) :
    (p.placeMount l).lane l = { p.lane l with waiting.mount := some ⟨op, false⟩ } := by
  obtain ⟨hpark, hstopped, hwaiting, hflier⟩ : p.power.state ≠ .park ∧ p.power.state ≠ .stopped
      ∧ (p.lane l).waiting.mount = none ∧ (p.lane l).flier ≠ some .mount := by
    simpa [Part.mountBusy, not_or] using h
  rw [Part.placeMount_asks hop hpark hstopped hwaiting hflier, Part.lane_place_same,
    LaneRec.request_waits _ (LaneRec.discards_never _ rfl)]
  rfl

theorem Part.mountOp_headers {p : Part} {l : Lane} (hstep : p.mount.step = .identify ∨ p.mount.step = .headers)
    (hpresent : p.present l = true) : p.mountOp l =
      if (p.mount.lanes.get l).nextSeg < (p.lane l).count then
        some (.readLine (p.mount.lanes.get l).nextSeg (p.mount.lanes.get l).sub.line) else none := by
  have hlane := (p.present_iff l).1 hpresent
  rcases hstep with h | h <;> simp only [Part.mountOp, h, hlane]

theorem Part.placeMount_nothing {p : Part} {l : Lane} (hop : p.mountOp l = none) : p.placeMount l = p := by
  simp only [Part.placeMount, hop]

/-! ## Taking stock in the header step (R166 to R168) -/

theorem Part.headersDone_iff (p : Part) : p.headersDone = true ↔
    ∀ l, p.present l = true → (p.lane l).count ≤ (p.mount.lanes.get l).nextSeg := by
  have hall : ∀ f : Lane → Bool, allLanes.all f = true ↔ ∀ l, f l = true := fun f =>
    ⟨fun h l => List.all_eq_true.1 h l (by fin_cases l <;> decide), fun h => List.all_eq_true.2 fun l _ => h l⟩
  rw [Part.headersDone, hall]
  refine forall_congr' fun l => ?_
  cases p.present l <;> simp

theorem Part.endIdentify_headers {p : Part} (h : p.mount.step = .headers) : p.endIdentify = p := by
  rw [Part.endIdentify, h]
  rfl

theorem Part.mountProgress_headers {p : Part} (hstate : p.mount.state = .mounting) (hstep : p.mount.step = .headers) :
    p.mountProgress = if p.headersDone then p.endHeaders.placeMountAll else p.placeMountAll := by
  simp only [Part.mountProgress, hstate, Part.endIdentify_headers hstep, hstep, beq_self_eq_true, Bool.true_and, if_true]
  split <;> rfl

theorem Part.anyPresent_iff (p : Part) : p.anyPresent = true ↔ ∃ l, p.present l = true := by
  simp only [Part.anyPresent, Quad.toList, List.any_cons, List.any_nil, Bool.or_false, Bool.or_eq_true, Fin.exists_fin_succ]
  simp [Part.present, Part.lane, Quad.get]

theorem Part.endHeaders_none {p : Part} (hchain : p.chain = []) (hpresent : ∀ l, p.present l = false) :
    p.endHeaders = p.failMount 3 := by
  have hany : p.anyPresent = false := Bool.eq_false_iff.2 fun h => by
    obtain ⟨l, hl⟩ := p.anyPresent_iff.1 h
    rw [hpresent] at hl
    exact Bool.noConfusion hl
  simp only [Part.endHeaders, hchain, hany, List.isEmpty_nil, Bool.not_false, Bool.and_self, if_true]

theorem Part.endHeaders_some {p : Part} (h : p.chain ≠ [] ∨ ∃ l, p.present l = true) : p.endHeaders =
    if (p.chain.map fun x => x.2.epoch).Nodup then
      Part.walkMembers (p.entries.length + 1) 0 { p with mount.step := .records } else p.failMount 4 := by
  have hnot : (p.chain.isEmpty && !p.anyPresent) = false := by
    rcases h with h | h
    · rw [List.isEmpty_eq_false_iff.2 h, Bool.false_and]
    · rw [p.anyPresent_iff.2 h, Bool.not_true, Bool.and_false]
  simp only [Part.endHeaders, hnot, Bool.false_eq_true, if_false, Part.epochConflict, Bool.not_eq_true', decide_eq_false_iff_not]
  by_cases hnodup : (p.chain.map fun x => x.2.epoch).Nodup
  · rw [if_neg (not_not.2 hnodup), if_pos hnodup]
  · rw [if_pos hnodup, if_neg hnodup]

/-! ## The lines of the header step (R6, R10, R167) -/

theorem Part.mountLine_headers {p : Part} (l : Lane) (bytes : List Byte) (hstep : p.mount.step = .identify ∨ p.mount.step = .headers) :
    p.mountLine l bytes = (p.headerLine l bytes).mountProgress := by
  rcases hstep with h | h <;> simp only [Part.mountLine, h]

section
variable {p : Part} {l : Lane} {bytes : List Byte} {x : LaneMount}

theorem Part.headerLine_valid {epoch : Long} (hx : p.mount.lanes.get l = x) (hsub : x.sub = .line0)
    (h : judgeHeader ⟨l, x.nextSeg⟩ bytes = .valid epoch) : p.headerLine l bytes =
      { p.modSeg ⟨l, x.nextSeg⟩ (fun e => { e with state := .closed, epoch := epoch, claimed := 0, readers := 0 }) with
        mount.lanes := p.mount.lanes.set l { x with sub := .trailer epoch } } := by
  subst hx
  simp only [Part.headerLine, hsub, h]
  rfl

theorem Part.headerLine_blank (hx : p.mount.lanes.get l = x) (hsub : x.sub = .line0)
    (h : judgeHeader ⟨l, x.nextSeg⟩ bytes = .blank) : p.headerLine l bytes =
      { p with mount.lanes := p.mount.lanes.set l { x with sub := .blank 1 } } := by
  subst hx
  simp only [Part.headerLine, hsub, h]
  rfl

theorem Part.headerLine_invalid (hx : p.mount.lanes.get l = x) (hsub : x.sub = .line0)
    (h : judgeHeader ⟨l, x.nextSeg⟩ bytes = .invalid) : p.headerLine l bytes = { p with
      mount.lanes := p.mount.lanes.set l { x with nextSeg := x.nextSeg + 1, sub := .line0 },
      mount.damaged := p.mount.damaged + 1 } := by
  subst hx
  simp only [Part.headerLine, hsub, h]
  rfl

theorem Part.headerLine_trailer {epoch : Long} {g n : Nat} (hx : p.mount.lanes.get l = x) (hsub : x.sub = .trailer epoch)
    (h : judgeTrailer epoch bytes = some (g, n)) : p.headerLine l bytes =
      Part.modSeg ⟨l, x.nextSeg⟩ (fun e => { e with trailered := true, goodEnd := g, used := g - 1 }) { p with
        mount.lanes := p.mount.lanes.set l { x with nextSeg := x.nextSeg + 1, sub := .line0 },
        mount.kept := p.mount.kept ++ [(⟨l, x.nextSeg⟩, n)] } := by
  subst hx
  simp only [Part.headerLine, hsub, h]
  rfl

theorem Part.headerLine_noTrailer {epoch : Long} (hx : p.mount.lanes.get l = x) (hsub : x.sub = .trailer epoch)
    (h : judgeTrailer epoch bytes = none) : p.headerLine l bytes =
      Part.modSeg ⟨l, x.nextSeg⟩ (fun e => { e with trailered := false, goodEnd := 1, used := 0 }) { p with
        mount.lanes := p.mount.lanes.set l { x with nextSeg := x.nextSeg + 1, sub := .line0 } } := by
  subst hx
  simp only [Part.headerLine, hsub, h]
  rfl

theorem Part.headerLine_notBlank {n : Nat} (hx : p.mount.lanes.get l = x) (hsub : x.sub = .blank n) (h : blankLine bytes = false) :
    p.headerLine l bytes = { p with
      mount.lanes := p.mount.lanes.set l { x with nextSeg := x.nextSeg + 1, sub := .line0 },
      mount.damaged := p.mount.damaged + 1 } := by
  subst hx
  simp only [Part.headerLine, hsub, h, Bool.not_false, if_true]
  rfl

theorem Part.headerLine_blankOn {n : Nat} (hx : p.mount.lanes.get l = x) (hsub : x.sub = .blank n) (h : blankLine bytes = true)
    (hn : n < 127) : p.headerLine l bytes = { p with mount.lanes := p.mount.lanes.set l { x with sub := .blank (n + 1) } } := by
  have hmore : ¬ trailerLine ≤ n := Nat.not_le.2 hn
  subst hx
  simp only [Part.headerLine, hsub, h, Bool.not_true, Bool.false_eq_true, if_false, if_neg hmore]
  rfl

theorem Part.headerLine_free {n : Nat} (hx : p.mount.lanes.get l = x) (hsub : x.sub = .blank n) (h : blankLine bytes = true)
    (hn : 127 ≤ n) : p.headerLine l bytes = Part.modSeg ⟨l, x.nextSeg⟩ (fun _ => ⟨.free, 0, 0, 0, 1, false, 0, false⟩) { p with
      mount.lanes := p.mount.lanes.set l { x with nextSeg := x.nextSeg + 1, sub := .line0 } } := by
  have hlast : trailerLine ≤ n := hn
  subst hx
  simp only [Part.headerLine, hsub, h, Bool.not_true, Bool.false_eq_true, if_false, if_pos hlast]
  rfl

end

/-! ## A lane lost in the header step (R171) -/

theorem Part.loseHeaders_judged {p : Part} {l : Lane} (h : (p.lane l).count - (p.mount.lanes.get l).nextSeg = 0) :
    p.loseHeaders l = p := by
  simp only [Part.loseHeaders, h, if_true]

theorem Part.loseHeaders_unread {p : Part} {l : Lane} (hleft : 0 < (p.lane l).count - (p.mount.lanes.get l).nextSeg)
    (hsub : ∀ epoch, (p.mount.lanes.get l).sub ≠ .trailer epoch) : p.loseHeaders l = { p with
      mount.damaged := p.mount.damaged + ((p.lane l).count - (p.mount.lanes.get l).nextSeg),
      mount.lanes := p.mount.lanes.set l ⟨(p.mount.lanes.get l).identEnded, (p.lane l).count, .line0⟩ } := by
  have hne : ¬ (p.lane l).count - (p.mount.lanes.get l).nextSeg = 0 := Nat.pos_iff_ne_zero.1 hleft
  cases h : (p.mount.lanes.get l).sub with
  | trailer epoch => exact absurd h (hsub epoch)
  | line0 =>
    simp only [Part.loseHeaders, if_neg hne, h]
    rfl
  | blank n =>
    simp only [Part.loseHeaders, if_neg hne, h]
    rfl

theorem Part.loseHeaders_trailer {p : Part} {l : Lane} {epoch : Long} (hleft : 0 < (p.lane l).count - (p.mount.lanes.get l).nextSeg)
    (hsub : (p.mount.lanes.get l).sub = .trailer epoch) : p.loseHeaders l =
      Part.modSeg ⟨l, (p.mount.lanes.get l).nextSeg⟩ (fun e => { e with goodEnd := 1, used := 126 }) { p with
        mount.damaged := p.mount.damaged + ((p.lane l).count - (p.mount.lanes.get l).nextSeg - 1),
        mount.lanes := p.mount.lanes.set l ⟨(p.mount.lanes.get l).identEnded, (p.lane l).count, .line0⟩ } := by
  have hne : ¬ (p.lane l).count - (p.mount.lanes.get l).nextSeg = 0 := Nat.pos_iff_ne_zero.1 hleft
  simp only [Part.loseHeaders, if_neg hne, hsub]
  rfl

/-! ## Line 0 of a segment with another after it (R167) -/

/-- The end of a requester's operation whose results are not discarded. -/
theorem LaneRec.landed_undiscarded {r : LaneRec} {f : InFlight} (hf : r.inFlight = some f) (h : f.requester.mayDiscard = false) :
    r.landed = { r with inFlight := none, heldBack := none } := by
  unfold LaneRec.landed
  rw [hf]
  cases r.heldBack with
  | none => rfl
  | some q => simp only [LaneRec.discards_never _ h, Bool.false_eq_true, if_false]

/-- What the mount engine asks of a lane of which segments are left, after a line of its header step. -/
theorem Part.headerStep_asks {q : Part} {l : Lane} {x : LaneMount} (hstate : q.mount.state = .mounting)
    (hstep : q.mount.step = .headers) (hx : q.mount.lanes.get l = x) (hpresent : q.present l = true)
    (hleft : x.nextSeg < (q.lane l).count) (hbusy : ¬ q.mountBusy l) :
    q.mountProgress = q.placeMountAll
    ∧ (q.mountProgress.refreshErase.lane l).waiting.mount = some ⟨.readLine x.nextSeg x.sub.line, false⟩ := by
  subst hx
  have hprogress : q.mountProgress = q.placeMountAll := by
    rw [Part.mountProgress_headers hstate hstep, if_neg]
    exact fun h => absurd ((q.headersDone_iff.1 h) l hpresent) (Nat.not_le.2 hleft)
  refine ⟨hprogress, ?_⟩
  have hop := Part.mountOp_headers (.inr hstep) hpresent
  rw [if_pos hleft] at hop
  rw [show (q.mountProgress.refreshErase.lane l).waiting.mount = (q.mountProgress.lane l).waiting.mount from
      Part.refreshErase_waiting q.mountProgress l (rq := .mount) (by decide), hprogress, Part.placeMountAll_lane,
    Part.placeMount_lane hop hbusy]

/-- A line of the header step has been judged with a segment left on its lane: the tables stand as the judgment left them, and the
next line is asked for. -/
theorem Part.headerStep_outcome {p q : Part} {l : Lane} {x : LaneMount} {i n ms : Nat}
    (hflight : (p.lane l).inFlight = some ⟨.mount, .readLine i n, ms, false⟩) (hwaiting : (p.lane l).waiting.mount = none)
    (hpresent : (p.lane l).state = .present) (hlive : p.live = true) (hpark : p.power.state ≠ .park)
    (hlanes : q.lanes = (p.landed l).lanes) (hpower : q.power = p.power) (hstate : q.mount.state = .mounting)
    (hstep : q.mount.step = .headers) (hx : q.mount.lanes.get l = x) (hleft : x.nextSeg < (p.lane l).count) {t : Part}
    (ht : t = q.mountProgress.refreshErase) :
    t.mem = q.mem ∧ t.dir = q.dir ∧ t.orders = q.orders ∧ t.segs = q.segs ∧ t.mount.damaged = q.mount.damaged
    ∧ (t.lane l).waiting.mount = some ⟨.readLine x.nextSeg x.sub.line, false⟩ := by
  have hlane : q.lane l = { p.lane l with inFlight := none, heldBack := none } := by
    rw [show q.lane l = (p.landed l).lane l from congrArg (Quad.get · l) hlanes, Part.lane_landed_same,
      LaneRec.landed_undiscarded hflight rfl]
  have hbusy : ¬ q.mountBusy l := by
    simp only [Part.mountBusy, hpower, hlane, not_or, not_not, LaneRec.flier, Option.map_none]
    exact ⟨hpark, Part.not_stopped_of_live hlive, hwaiting, by simp⟩
  obtain ⟨hprogress, hasked⟩ := Part.headerStep_asks hstate hstep hx ((q.present_iff l).2 (by rw [hlane]; exact hpresent))
    (by rw [hlane]; exact hleft) hbusy
  subst ht
  refine ⟨?_, ?_, ?_, ?_, ?_, hasked⟩ <;> rw [hprogress] <;> simp

theorem HeaderSub.line_cases (sub : HeaderSub) : sub.line = match sub with
    | .line0 => 0
    | .trailer _ => 127
    | .blank n => n := by
  cases sub <;> rfl

/-- Settles O37. -/
theorem readLineEndsMount : Obligations.ReadLineEndsMount := by
  unfold Obligations.ReadLineEndsMount
  refine ⟨fun s l bytes i ms hlive hlen hflight hwaiting hpresent hstate hstep hx hmore hi hpark => ?_,
    fun s l bytes i n ms hlive hlen hflight hstep => ?_, fun p => ?_, fun p lost => Part.mountLoses_headers lost,
    fun p l i bytes x hx hi => ?_, fun p => ⟨Part.endHeaders_none, fun hsome hconflict => ?_, fun hsome hnodup => ?_⟩,
    fun p l => ⟨Part.loseHeaders_judged, Part.loseHeaders_unread, fun epoch => Part.loseHeaders_trailer⟩⟩
  · have hexec : exec (.readLineEnd l bytes) s = .next (s.withPart ((s.part.landed l).headerLine l bytes).mountProgress.refreshErase) := by
      rw [exec_readLineEnd l hlive hlen, Part.readEnds_delivered bytes hflight]
      exact congrArg (fun r : Part => Host.Outcome.next (s.withPart r.refreshErase))
        (Part.mountLine_headers (p := s.part.landed l) l bytes (.inr hstep))
    have hx' : (s.part.landed l).mount.lanes.get l = ⟨true, i, .line0⟩ := hx
    refine ⟨_, hexec, ?_⟩
    cases hj : judgeHeader ⟨l, i⟩ bytes with
    | valid epoch =>
      rw [Part.headerLine_valid hx' rfl hj]
      obtain ⟨hmem, hdir, horders, hsegs, hdamaged, hasked⟩ := Part.headerStep_outcome
        (q := { (s.part.landed l).modSeg ⟨l, i⟩ (fun e => { e with state := .closed, epoch := epoch, claimed := 0, readers := 0 }) with
          mount.lanes := s.part.mount.lanes.set l ⟨true, i, .trailer epoch⟩ })
        hflight hwaiting hpresent hlive hpark rfl rfl hstate hstep (Quad.get_set_same _ _ _) (by show i < _; omega) rfl
      refine ⟨hmem, hdir, horders, fun epoch' h => ?_, fun h => by simp at h, fun h => by simp at h⟩
      obtain rfl : epoch = epoch' := by simpa using h
      have hseg := ((s.part.landed l)).seg_modSeg_same ⟨l, i⟩
        (fun e => { e with state := .closed, epoch := epoch, claimed := 0, readers := 0 }) hi
      have hseg' := (Part.seg_congr hsegs ⟨l, i⟩).trans hseg
      exact ⟨congrArg SegEntry.state hseg', congrArg SegEntry.epoch hseg', congrArg SegEntry.claimed hseg', hasked,
        hdamaged⟩
    | blank =>
      rw [Part.headerLine_blank hx' rfl hj]
      obtain ⟨hmem, hdir, horders, hsegs, hdamaged, hasked⟩ := Part.headerStep_outcome
        (q := { s.part.landed l with mount.lanes := s.part.mount.lanes.set l ⟨true, i, .blank 1⟩ })
        hflight hwaiting hpresent hlive hpark rfl rfl hstate hstep (Quad.get_set_same _ _ _) (by show i < _; omega) rfl
      exact ⟨hmem, hdir, horders, fun epoch h => by simp at h, fun _ => ⟨hsegs, hasked, hdamaged⟩,
        fun h => by simp at h⟩
    | invalid =>
      rw [Part.headerLine_invalid hx' rfl hj]
      obtain ⟨hmem, hdir, horders, hsegs, hdamaged, hasked⟩ := Part.headerStep_outcome
        (q := { s.part.landed l with
          mount.lanes := s.part.mount.lanes.set l ⟨true, i + 1, .line0⟩, mount.damaged := s.part.mount.damaged + 1 })
        hflight hwaiting hpresent hlive hpark rfl rfl hstate hstep (Quad.get_set_same _ _ _) (by show i + 1 < _; omega) rfl
      exact ⟨hmem, hdir, horders, fun epoch h => by simp at h, fun h => by simp at h,
        fun _ => ⟨hsegs, hasked, hdamaged⟩⟩
  · rw [exec_readLineEnd l hlive hlen, Part.readEnds_delivered bytes hflight]
    exact congrArg (fun r : Part => Host.Outcome.next (s.withPart r.refreshErase))
      (Part.mountLine_headers (p := s.part.landed l) l bytes hstep)
  · refine ⟨Part.mountProgress_outside, fun hstate hstep ⟨other, hother⟩ => Part.mountProgress_identifying hstate hstep hother,
      fun hstate hstep hnot => ?_, fun hstate hstep hjudged => ?_, p.placeMountAll_rest, fun hstep l hpresent => ?_⟩
    · rw [Part.mountProgress_headers hstate hstep, if_neg (mt p.headersDone_iff.1 hnot)]
    · rw [Part.mountProgress_headers hstate hstep, if_pos (p.headersDone_iff.2 hjudged)]
    · intro x line busy
      have hop := Part.mountOp_headers hstep hpresent
      rw [Part.placeMountAll_lane]
      refine ⟨fun hleft hbusy => ?_, fun h => ?_⟩
      · rw [if_pos hleft, HeaderSub.line_cases] at hop
        exact Part.placeMount_lane hop hbusy
      · rcases h with hdone | hbusy
        · rw [if_neg (Nat.not_lt.2 hdone)] at hop
          rw [Part.placeMount_nothing hop]
        · rw [Part.placeMount_busy hbusy]
  · subst hi
    intro next
    exact ⟨fun hsub => ⟨fun epoch => Part.headerLine_valid hx hsub, Part.headerLine_blank hx hsub, Part.headerLine_invalid hx hsub⟩,
      fun epoch g n hsub => Part.headerLine_trailer hx hsub, fun epoch hsub => Part.headerLine_noTrailer hx hsub,
      fun n hsub => Part.headerLine_notBlank hx hsub, fun n hsub => Part.headerLine_blankOn hx hsub,
      fun n hsub => Part.headerLine_free hx hsub⟩
  · rw [Part.endHeaders_some hsome, if_neg hconflict]
  · rw [Part.endHeaders_some hsome, if_pos (not_not.1 hnodup)]

end Sys2Proof.Machine
end

section
/-! SUPPORT. The records step of mount: the walk of a segment line by line, the chain members in epoch order, a lane lost in it
(R169 to R171). -/

namespace Sys2Proof.Machine

/-! ## The walk of a segment (R169, R170) -/

theorem Part.mountLine_records {p : Part} {w : MountWalk} (l : Lane) (bytes : List Byte) (hstep : p.mount.step = .records)
    (hw : p.mount.walk = some w) : p.mountLine l bytes = (p.walkMountLine w bytes).mountProgress := by
  simp only [Part.mountLine, hstep, hw]

/-- The entry a record read by mount gives its key, when the directory takes it (R31, R32). -/
def Part.mountTakes (p : Part) (w : MountWalk) (h : RecHeader) : Option (List DirEntry) :=
  dirMount ⟨h.key, h.sequence, decide (h.kind = 2), ⟨w.addr, w.pos⟩, h.length, lineCount h.length⟩ p.dir

/-- The part with a record accepted. -/
def Part.accepted (d : List DirEntry) (h : RecHeader) (p : Part) : Part := { p with
  dir := d, mount.maxSeq := if p.mount.maxSeq < h.sequence then h.sequence else p.mount.maxSeq }

theorem Part.acceptRecord_eq (p : Part) (w : MountWalk) (h : RecHeader) :
    p.acceptRecord w h = (p.mountTakes w h).map fun d => p.accepted d h := by
  unfold Part.acceptRecord
  show (match p.mountTakes w h with | none => _ | some d => _) = _
  cases p.mountTakes w h <;> rfl

section
variable {p : Part} {w : MountWalk} {bytes : List Byte}

/-- The header of a record of a trailered segment is valid, and the record ends below the good end. -/
def Part.wholeRecord (p : Part) (w : MountWalk) (bytes : List Byte) : Prop :=
  headerValid (p.seg w.addr).epoch w.pos bytes = true
    ∧ w.pos + lineCount (readHeader bytes).length - 1 ≤ (p.seg w.addr).goodEnd - 1

theorem Part.walkMountLine_trailered (hphase : w.phase = .header) (ht : (p.seg w.addr).trailered = true) :
    p.walkMountLine w bytes = p.trailedLine (w.see bytes) (p.seg w.addr).goodEnd bytes := by
  have hphase' : (w.see bytes).phase = .header := hphase
  simp only [Part.walkMountLine, hphase', ht, if_true]

theorem Part.trailedLine_broken (h : ¬ p.wholeRecord w bytes) :
    p.trailedLine (w.see bytes) (p.seg w.addr).goodEnd bytes = Part.nextWalk (w.see bytes)
      (Part.modSeg w.addr (fun e => { e with goodEnd := w.pos })
        { p with mount.lastAccepted := w.accepted, mount.damaged := p.mount.damaged + 1 }) := by
  have hnot : ¬ (headerValid (p.seg (w.see bytes).addr).epoch (w.see bytes).pos bytes
      && decide ((w.see bytes).pos + lineCount (readHeader bytes).length - 1 ≤ (p.seg w.addr).goodEnd - 1)) = true := by
    rw [Bool.and_eq_true, decide_eq_true_eq]
    exact h
  simp only [Part.trailedLine, if_neg hnot]
  rfl

theorem Part.trailedLine_whole (h : p.wholeRecord w bytes) :
    p.trailedLine (w.see bytes) (p.seg w.addr).goodEnd bytes =
      match p.acceptRecord (w.see bytes) (readHeader bytes) with
      | none => p.failMount 5
      | some q =>
        if (p.seg w.addr).goodEnd ≤ ((w.see bytes).past (readHeader bytes)).pos then
          (q.finishTrailered w.addr (w.accepted + 1)).nextWalk ((w.see bytes).past (readHeader bytes))
        else q.setWalk ((w.see bytes).past (readHeader bytes)) := by
  have hyes : (headerValid (p.seg (w.see bytes).addr).epoch (w.see bytes).pos bytes
      && decide ((w.see bytes).pos + lineCount (readHeader bytes).length - 1 ≤ (p.seg w.addr).goodEnd - 1)) = true := by
    rw [Bool.and_eq_true, decide_eq_true_eq]
    exact h
  simp only [Part.trailedLine, if_pos hyes]
  rfl

theorem Part.trailedLine_full (h : p.wholeRecord w bytes) (hd : p.mountTakes w (readHeader bytes) = none) :
    p.trailedLine (w.see bytes) (p.seg w.addr).goodEnd bytes = p.failMount 5 := by
  have haccept : p.acceptRecord (w.see bytes) (readHeader bytes) = none := by
    rw [Part.acceptRecord_eq, show p.mountTakes (w.see bytes) (readHeader bytes) = none from hd]
    rfl
  rw [Part.trailedLine_whole h, haccept]

theorem Part.trailedLine_accepted {d : List DirEntry} (h : p.wholeRecord w bytes)
    (hd : p.mountTakes w (readHeader bytes) = some d) :
    p.trailedLine (w.see bytes) (p.seg w.addr).goodEnd bytes =
      if (p.seg w.addr).goodEnd ≤ w.pos + lineCount (readHeader bytes).length then
        ((p.accepted d (readHeader bytes)).finishTrailered w.addr (w.accepted + 1)).nextWalk ((w.see bytes).past (readHeader bytes))
      else (p.accepted d (readHeader bytes)).setWalk ((w.see bytes).past (readHeader bytes)) := by
  have haccept : p.acceptRecord (w.see bytes) (readHeader bytes) = some (p.accepted d (readHeader bytes)) := by
    rw [Part.acceptRecord_eq, show p.mountTakes (w.see bytes) (readHeader bytes) = some d from hd]
    rfl
  rw [Part.trailedLine_whole h, haccept]
  rfl

theorem Part.walkMountLine_broken (hphase : w.phase = .header) (ht : (p.seg w.addr).trailered = false)
    (h : blankLine bytes = true ∨ headerValid (p.seg w.addr).epoch w.pos bytes = false) :
    p.walkMountLine w bytes = p.endUntrailered (w.see bytes) (w.pos + 1) := by
  have hphase' : (w.see bytes).phase = .header := hphase
  have hstops : (blankLine bytes || !headerValid (p.seg w.addr).epoch (w.see bytes).pos bytes) = true := by
    rcases h with h | h
    · rw [h, Bool.true_or]
    · rw [show headerValid (p.seg w.addr).epoch (w.see bytes).pos bytes = false from h, Bool.not_false, Bool.or_true]
  simp only [Part.walkMountLine, hphase', ht, Bool.false_eq_true, if_false, hstops, if_true]
  rfl

theorem Part.walkMountLine_begins (hphase : w.phase = .header) (ht : (p.seg w.addr).trailered = false)
    (hblank : blankLine bytes = false) (hvalid : headerValid (p.seg w.addr).epoch w.pos bytes = true) :
    p.walkMountLine w bytes = p.recordLine (w.see bytes) ⟨readHeader bytes, 0, PayloadRun.start⟩ bytes := by
  have hphase' : (w.see bytes).phase = .header := hphase
  have hvalid' : headerValid (p.seg w.addr).epoch (w.see bytes).pos bytes = true := hvalid
  simp only [Part.walkMountLine, hphase', ht, Bool.false_eq_true, if_false, hblank, hvalid', Bool.not_true, Bool.or_self]

theorem Part.walkMountLine_payload {r : WalkRec} (hphase : w.phase = .payload r) :
    p.walkMountLine w bytes = p.recordLine (w.see bytes) r bytes := by
  have hphase' : (w.see bytes).phase = .payload r := hphase
  simp only [Part.walkMountLine, hphase']

theorem Part.walkMountLine_rest (hphase : w.phase = .rest) : p.walkMountLine w bytes =
    if 126 ≤ w.nextLine then p.finishUntrailered (w.see bytes) (w.see bytes).high
    else { p with mount.walk := some { w.see bytes with nextLine := w.nextLine + 1 } } := by
  have hphase' : (w.see bytes).phase = .rest := hphase
  simp only [Part.walkMountLine, hphase']
  rfl

/-! ### A record of an untrailered segment (R170) -/

theorem Part.recordLine_more {r : WalkRec} (h : r.got + 1 < lineCount r.header.length) : p.recordLine w r bytes =
    { p with mount.walk := some { w with
      phase := .payload ⟨r.header, r.got + 1, r.run.feed r.header.length r.got bytes⟩, nextLine := w.nextLine + 1 } } := by
  have hmore : ¬ lineCount r.header.length ≤ r.got + 1 := Nat.not_le.2 h
  simp only [Part.recordLine, if_neg hmore]
  rfl

theorem Part.recordLine_bad {r : WalkRec} (h : lineCount r.header.length ≤ r.got + 1)
    (hrun : (r.run.feed r.header.length r.got bytes).ok = false) : p.recordLine w r bytes = p.endUntrailered w (w.nextLine + 1) := by
  simp only [Part.recordLine, if_pos h, Part.judgeRecord, hrun, Bool.false_eq_true, if_false]

theorem Part.recordLine_full {r : WalkRec} (h : lineCount r.header.length ≤ r.got + 1)
    (hrun : (r.run.feed r.header.length r.got bytes).ok = true) (hd : p.mountTakes w r.header = none) :
    p.recordLine w r bytes = p.failMount 5 := by
  simp only [Part.recordLine, if_pos h, Part.judgeRecord, hrun, if_true, Part.acceptRecord_eq, hd, Option.map_none]

theorem Part.recordLine_accepted {r : WalkRec} {d : List DirEntry} (h : lineCount r.header.length ≤ r.got + 1)
    (hrun : (r.run.feed r.header.length r.got bytes).ok = true) (hd : p.mountTakes w r.header = some d) :
    p.recordLine w r bytes = if 127 ≤ w.pos + lineCount r.header.length then
        (p.accepted d r.header).endUntrailered (w.past r.header) (w.pos + lineCount r.header.length)
      else { p.accepted d r.header with mount.walk := some (w.past r.header) } := by
  simp only [Part.recordLine, if_pos h, Part.judgeRecord, hrun, if_true, Part.acceptRecord_eq, hd, Option.map_some]
  rfl

end

theorem Part.endUntrailered_youngest {p : Part} {w : MountWalk} {next : Nat} (h : p.youngest w.addr = true) :
    p.endUntrailered w next = if next ≤ 126 then
        { p.modSeg w.addr (fun e => { e with goodEnd := w.pos }) with
          mount.walk := some { w with phase := .rest, nextLine := next } }
      else (p.modSeg w.addr fun e => { e with goodEnd := w.pos }).finishUntrailered w w.high := by
  simp only [Part.endUntrailered, h, if_true]
  rfl

theorem Part.endUntrailered_older {p : Part} {w : MountWalk} {next : Nat} (h : p.youngest w.addr = false) :
    p.endUntrailered w next = (p.modSeg w.addr fun e => { e with goodEnd := w.pos }).finishUntrailered w 126 := by
  simp only [Part.endUntrailered, h, Bool.false_eq_true, if_false]
  rfl

/-! ## The chain members (R169, R171) -/

theorem Part.walkMembers_last {p : Part} (n : Nat) {after : Long} (h : p.nextMember after = none) :
    p.walkMembers (n + 1) after = p.completeTables := by
  simp only [Part.walkMembers, h]

theorem Part.walkMembers_empty {p : Part} (n : Nat) {after : Long} {a : SegAddr} {e : SegEntry}
    (h : p.nextMember after = some (a, e)) (ht : e.trailered = true) (hg : e.goodEnd ≤ 1) :
    p.walkMembers (n + 1) after = (p.finishTrailered a 0).walkMembers n e.epoch := by
  simp only [Part.walkMembers, h, ht, hg, decide_true, Bool.and_self, if_true]

theorem Part.walkMembers_walks {p : Part} (n : Nat) {after : Long} {a : SegAddr} {e : SegEntry}
    (h : p.nextMember after = some (a, e)) (hread : e.trailered = false ∨ 1 < e.goodEnd) : p.walkMembers (n + 1) after =
      if p.present a.lane then { p with mount.walk := some ⟨a, 1, 0, .header, 1, 0⟩ }
      else (p.lostMember a).walkMembers n e.epoch := by
  have hnot : (e.trailered && decide (e.goodEnd ≤ 1)) = false := by
    rcases hread with hr | hr
    · rw [hr, Bool.false_and]
    · rw [decide_eq_false (Nat.not_le.2 hr), Bool.and_false]
  simp only [Part.walkMembers, h, hnot, Bool.false_eq_true, if_false]
  cases p.present a.lane <;> rfl

theorem Part.finishTrailered_eq (p : Part) (a : SegAddr) (n : Nat) : p.finishTrailered a n = { p with
    mount.lastAccepted := n,
    mount.damaged := p.mount.damaged + if (p.mount.kept.find? fun y => y.1 == a).all fun y => y.2 == n then 0 else 1 } := by
  unfold Part.finishTrailered
  cases hfind : p.mount.kept.find? fun y => y.1 == a with
  | none =>
    simp only [Option.all_none, if_true]
    rfl
  | some y =>
    obtain ⟨b, count⟩ := y
    simp only [Option.all_some, beq_iff_eq]
    by_cases hc : count = n
    · rw [if_pos hc, if_pos hc]
      rfl
    · rw [if_neg hc, if_neg hc]
      rfl

theorem Part.loseWalk_lost {p : Part} {w : MountWalk} (hw : p.mount.walk = some w) (hlost : p.present w.addr.lane = false) :
    p.loseWalk = Part.nextWalk w (Part.modSeg w.addr (fun e => { e with
        goodEnd := if w.phase = .rest then e.goodEnd else w.pos,
        used := if e.trailered = true ∧ p.youngest w.addr = false then e.used else 126 })
      { p with mount.lastAccepted := w.accepted }) := by
  have hused : ∀ e : SegEntry, (if e.trailered && !p.youngest w.addr then e.used else lastRecordLine)
      = if e.trailered = true ∧ p.youngest w.addr = false then e.used else 126 := fun e =>
    if_congr (by simp) rfl rfl
  simp only [Part.loseWalk, hw, hlost, Bool.false_eq_true, if_false, hused]

theorem Part.loseWalk_kept {p : Part} {w : MountWalk} (hw : p.mount.walk = some w) (hkept : p.present w.addr.lane = true) :
    p.loseWalk = p := by
  simp only [Part.loseWalk, hw, hkept, if_true]

theorem Part.loseWalk_none {p : Part} (hw : p.mount.walk = none) : p.loseWalk = p := by
  simp only [Part.loseWalk, hw]

end Sys2Proof.Machine
end

section
/-! SUPPORT. How a mount ends: the claimed lines, the HEAD, the counters, the survey record and the failures (R172 to R174). -/

namespace Sys2Proof.Machine

/-! ## Every entry of the segment table changed -/

theorem addrsFrom_map_getElem? (l : Lane) (n : Nat) (es : List SegEntry) (f : SegAddr → SegEntry → SegEntry) (i : Nat) :
    ((addrsFrom l n es).map fun x => f x.1 x.2)[i]? = es[i]?.map (f ⟨l, n + i⟩) := by
  induction es generalizing n i with
  | nil => rfl
  | cons e rest ih =>
    cases i with
    | zero => rfl
    | succ i =>
      have h := ih (n + 1) i
      rw [show n + 1 + i = n + (i + 1) by omega] at h
      exact h

theorem Part.mapSegs_get (p : Part) (f : SegAddr → SegEntry → SegEntry) (l : Lane) :
    (p.mapSegs f).segs.get l = (addrsFrom l 0 (p.segs.get l)).map fun x => f x.1 x.2 := by
  fin_cases l <;> rfl

theorem Part.seg_mapSegs {p : Part} {f : SegAddr → SegEntry → SegEntry} (a : SegAddr) (h : a.seg < (p.segs.get a.lane).length) :
    (p.mapSegs f).seg a = f a (p.seg a) := by
  simp only [Part.seg, List.getD_eq_getElem?_getD, Part.mapSegs_get, addrsFrom_map_getElem?, List.getElem?_eq_getElem h,
    Option.map_some, Option.getD_some, Nat.zero_add]

/-- A change that leaves an entry never used alone holds for every address. -/
theorem Part.seg_mapSegs_all {p : Part} {f : SegAddr → SegEntry → SegEntry} (a : SegAddr)
    (hf : f a (SegEntry.cleared .bad) = SegEntry.cleared .bad) : (p.mapSegs f).seg a = f a (p.seg a) := by
  by_cases h : a.seg < (p.segs.get a.lane).length
  · exact Part.seg_mapSegs a h
  · have hnone : (p.segs.get a.lane)[a.seg]? = none := List.getElem?_eq_none (Nat.not_lt.1 h)
    simp only [Part.seg, List.getD_eq_getElem?_getD, Part.mapSegs_get, addrsFrom_map_getElem?, hnone, Option.map_none,
      Option.getD_none, hf]

theorem Part.mapSegs_length (p : Part) (f : SegAddr → SegEntry → SegEntry) (l : Lane) :
    ((p.mapSegs f).segs.get l).length = (p.segs.get l).length := by
  rw [Part.mapSegs_get, List.length_map, addrsFrom_length]

/-! ## The next line of the walk (R65, R169) -/

/-- Where the mount engine asks of one lane alone, that lane's request is all that is placed. -/
theorem Part.placeMountAll_only {p : Part} (l : Lane) (h : ∀ (q : Part) (k : Lane), q.mount = p.mount → k ≠ l → q.mountOp k = none) :
    p.placeMountAll = p.placeMount l := by
  have hother : ∀ (q : Part) (k : Lane), q.mount = p.mount → k ≠ l → q.placeMount k = q := fun q k hq hk =>
    Part.placeMount_nothing (h q k hq hk)
  have hmount : ∀ k, (p.placeMount k).mount = p.mount := fun k => by simp
  unfold Part.placeMountAll
  fin_cases l
  · rw [hother (p.placeMount 0) 1 (hmount 0) (by decide), hother (p.placeMount 0) 2 (hmount 0) (by decide),
      hother (p.placeMount 0) 3 (hmount 0) (by decide)]
    rfl
  · rw [hother p 0 rfl (by decide), hother (p.placeMount 1) 2 (hmount 1) (by decide),
      hother (p.placeMount 1) 3 (hmount 1) (by decide)]
    rfl
  · rw [hother p 0 rfl (by decide), hother p 1 rfl (by decide), hother (p.placeMount 2) 3 (hmount 2) (by decide)]
    rfl
  · rw [hother p 0 rfl (by decide), hother p 1 rfl (by decide), hother p 2 rfl (by decide)]
    rfl

theorem Part.mountProgress_records {p : Part} (hstate : p.mount.state = .mounting) (hstep : p.mount.step = .records) :
    p.mountProgress = p.placeMountAll := by
  have hend : p.endIdentify = p := by
    rw [Part.endIdentify, hstep]
    rfl
  have hnot : (MountStep.records == MountStep.headers) = false := rfl
  simp only [Part.mountProgress, hstate, hend, hstep, hnot, Bool.false_and, Bool.false_eq_true, if_false, if_true]

theorem Part.mountProgress_walk {p : Part} {w : MountWalk} (hstate : p.mount.state = .mounting) (hstep : p.mount.step = .records)
    (hpark : p.power.state ≠ .park) (hstopped : p.power.state ≠ .stopped) (hw : p.mount.walk = some w)
    (hpresent : p.present w.addr.lane = true) (hwaiting : (p.lane w.addr.lane).waiting.mount = none)
    (hflier : (p.lane w.addr.lane).flier ≠ some .mount) : p.mountProgress = p.setLane w.addr.lane
      { p.lane w.addr.lane with waiting.mount := some ⟨.readLine w.addr.seg w.nextLine, false⟩ } := by
  have hop : p.mountOp w.addr.lane = some (.readLine w.addr.seg w.nextLine) := by
    simp only [Part.mountOp, hstep, hw, hpresent, and_self, if_true]
  rw [Part.mountProgress_records hstate hstep, Part.placeMountAll_only w.addr.lane fun q k hq hk => ?_,
    Part.placeMount_asks hop hpark hstopped hwaiting hflier, Part.place, LaneRec.request_waits _ (LaneRec.discards_never _ rfl)]
  · rfl
  · simp only [Part.mountOp, hq, hstep, hw]
    exact if_neg fun h => hk h.1.symm

/-! ## The tables completed (R172) -/

theorem Part.anyOffline_iff (p : Part) : p.anyOffline = true ↔ ∃ l, (p.lane l).state = .offline := by
  simp only [Part.anyOffline, Quad.toList, List.any_cons, List.any_nil, Bool.or_false, Bool.or_eq_true, Fin.exists_fin_succ]
  simp [Part.lane, Quad.get]

theorem Part.becomesHead_iff (p : Part) (a : SegAddr) (e : SegEntry) : p.becomesHead a e = true ↔
    e.trailered = false ∧ e.used < 126 ∧ p.present a.lane = true := by
  rw [Part.becomesHead, Bool.and_eq_true, Bool.and_eq_true, decide_eq_true_eq, Bool.not_eq_true', and_assoc]
  rfl

theorem Part.restoreHead_none {p : Part} (h : p.chain = []) : p.restoreHead =
    { p with head.seqCounter := 1, head.epochCounter := 1, head.recordsInHead := 0, lastHeadLane := 3 } := by
  simp only [Part.restoreHead, h, highestEpoch]

theorem Part.restoreHead_some {p : Part} {a : SegAddr} {e : SegEntry} (h : highestEpoch p.chain = some (a, e)) :
    p.restoreHead = if e.trailered = false ∧ e.used < 126 ∧ p.present a.lane = true then
        Part.modSeg a (fun e => { e with state := .head }) { p with
          head.seqCounter := p.mount.maxSeq + 1, head.epochCounter := e.epoch + 1, lastHeadLane := a.lane,
          head.recordsInHead := p.mount.lastAccepted }
      else { p with
        head.seqCounter := p.mount.maxSeq + 1, head.epochCounter := e.epoch + 1, lastHeadLane := a.lane,
        head.recordsInHead := 0 } := by
  simp only [Part.restoreHead, h]
  by_cases hb : p.becomesHead a e = true
  · rw [if_pos ((p.becomesHead_iff a e).1 hb), hb]
    rfl
  · rw [if_neg (mt (p.becomesHead_iff a e).2 hb), Bool.eq_false_iff.2 hb]
    rfl

theorem Part.restoreHead_frame (p : Part) : p.restoreHead.lanes = p.lanes ∧ p.restoreHead.mount = p.mount := by
  unfold Part.restoreHead
  split
  · exact ⟨rfl, rfl⟩
  · simp only
    split <;> exact ⟨rfl, rfl⟩

theorem Part.completeTables_eq (p : Part) : p.completeTables =
    if (∃ l, (p.lane l).state = .offline) ∨ 1 ≤ p.mount.damaged then p.computeClaims.restoreHead.endMount .degraded 2
    else p.computeClaims.restoreHead.endMount .mounted 1 := by
  obtain ⟨hlanes, hmount⟩ := p.computeClaims.restoreHead_frame
  have hoffline : p.computeClaims.restoreHead.anyOffline = p.anyOffline := by
    rw [Part.anyOffline, hlanes]
    rfl
  have hdamaged : p.computeClaims.restoreHead.mount.damaged = p.mount.damaged := by
    rw [hmount]
    rfl
  simp only [Part.completeTables, hoffline, hdamaged]
  exact if_congr (by rw [Bool.or_eq_true, p.anyOffline_iff, decide_eq_true_eq]) rfl rfl

/-! ## The ends (R173, R174) -/

/-- A mount ended: the state and code, the survey record at 0000hex and the notice (R173). -/
def Part.mountEnded (st : MountState) (code : Nat) (p : Part) : Part :=
  let r : Part := { p with mount.state := st, mount.step := .ended, mount.walk := none, mount.outcome := code }
  { r with mem := Mem.writeBytes p.mem 0 r.surveyRecord, bus.sticky := p.bus.sticky ||| 0x20 }

theorem Part.endMount_eq (p : Part) (st : MountState) (code : Nat) : p.endMount st code =
    if p.orders.intake = .ended then (p.mountEnded st code).compareLow else p.mountEnded st code := by
  have hnoted : ∀ (q : Part) (bytes : List Byte), (q.store 0 bytes).raise .mountEnded =
      { q with mem := Mem.writeBytes q.mem 0 bytes, bus.sticky := q.bus.sticky ||| 0x20 } := fun q bytes => rfl
  simp only [Part.endMount, hnoted, Part.mountEnded]

/-- The tables a failed mount leaves (R174). -/
def Part.failedTables (p : Part) : Part := { (p.mapSegs fun _ e => e.unwalked p.walkEpoch).cutWalk with
  dir := [], head.seqCounter := 0, head.epochCounter := 0, head.recordsInHead := 0, lastHeadLane := 3 }

/-- A failed mount sends no trigger (R51). -/
theorem Part.failMount_eq (p : Part) (code : Nat) : p.failMount code = p.failedTables.mountEnded .failed code := by
  show p.failedTables.endMount .failed code = _
  rw [Part.endMount_eq, Part.compareLow_above (.inl rfl), ite_self]

theorem Part.failedTables_frame (p : Part) : p.failedTables.bus = p.bus ∧ p.failedTables.orders = p.orders
    ∧ p.failedTables.lanes = p.lanes ∧ p.failedTables.reclaim = p.reclaim := by
  unfold Part.failedTables Part.cutWalk
  split <;> exact ⟨rfl, rfl, rfl, rfl⟩

theorem Part.unwalked_seg (p : Part) (v : Long) (a : SegAddr) :
    (p.mapSegs fun _ e => e.unwalked v).seg a = (p.seg a).unwalked v :=
  Part.seg_mapSegs_all a (if_neg fun h => by simp [SegEntry.cleared] at h)

/-- A segment that is not being walked when the mount fails. -/
theorem Part.failedTables_seg_other {p : Part} {a : SegAddr} (h : ∀ w, p.mount.walk = some w → w.addr ≠ a) :
    p.failedTables.seg a = (p.seg a).unwalked p.walkEpoch := by
  have hcut : (p.mapSegs fun _ e => e.unwalked p.walkEpoch).cutWalk.seg a
      = (p.mapSegs fun _ e => e.unwalked p.walkEpoch).seg a := by
    unfold Part.cutWalk
    split
    · rfl
    · next w hw => exact Part.seg_modSeg_other _ _ (Ne.symm (h w hw))
  exact hcut.trans (p.unwalked_seg _ a)

/-- The segment being walked when the mount fails (log 20). -/
theorem Part.failedTables_seg_walked {p : Part} {w : MountWalk} (hw : p.mount.walk = some w)
    (hin : w.addr.seg < (p.segs.get w.addr.lane).length) : p.failedTables.seg w.addr =
      if (p.seg w.addr).trailered then p.seg w.addr else { p.seg w.addr with goodEnd := w.pos, used := 126 } := by
  have hepoch : p.walkEpoch = (p.seg w.addr).epoch := by simp only [Part.walkEpoch, hw]
  have hunwalked : (p.seg w.addr).unwalked p.walkEpoch = p.seg w.addr := by
    rw [hepoch]
    exact if_neg fun h => BitVec.lt_irrefl _ h.2.2
  have hmapped := (p.unwalked_seg p.walkEpoch w.addr).trans hunwalked
  have hwalk : (p.mapSegs fun _ e => e.unwalked p.walkEpoch).mount.walk = some w := hw
  have hcut : (p.mapSegs fun _ e => e.unwalked p.walkEpoch).cutWalk.seg w.addr =
      (fun e : SegEntry => if e.trailered then e else { e with goodEnd := w.pos, used := lastRecordLine })
        ((p.mapSegs fun _ e => e.unwalked p.walkEpoch).seg w.addr) := by
    simp only [Part.cutWalk, hwalk]
    exact Part.seg_modSeg_same _ _ _ (by rwa [Part.mapSegs_length])
  refine hcut.trans ?_
  rw [hmapped]
  rfl

/-- Settles O38. -/
theorem mountWalksAndEnds : Obligations.MountWalksAndEnds := by
  unfold Obligations.MountWalksAndEnds
  refine ⟨⟨fun s l bytes i n ms w hlive hlen hflight hstep hw => ?_, fun p w bytes => ?_, fun p w r bytes => ?_, fun p w next => ?_,
      fun p w => rfl, fun p n after => ⟨Part.walkMembers_last n, fun a e h => ⟨Part.walkMembers_empty n h, fun hread hpresent => ?_,
        fun hread hlost => ?_⟩⟩, Part.finishTrailered_eq, fun p w => Part.loseWalk_lost, fun p lost hstate hstep => ⟨?_, fun w => Part.loseWalk_kept, Part.loseWalk_none⟩⟩,
    fun p hstate hstep hpark hstopped w => Part.mountProgress_walk hstate hstep hpark hstopped,
    fun p => ⟨fun a => Part.seg_mapSegs a, rfl, Part.restoreHead_none, fun a e h => ⟨fun hhead => ?_, fun hhead => ?_⟩, p.completeTables_eq⟩,
    fun p st code => ⟨fun h => by rw [Part.endMount_eq, if_pos h]; rfl, fun h => by rw [Part.endMount_eq, if_neg h]; rfl⟩, fun p code => ?_⟩
  · rw [exec_readLineEnd l hlive hlen, Part.readEnds_delivered bytes hflight]
    exact congrArg (fun r : Part => Host.Outcome.next (s.withPart r.refreshErase))
      (Part.mountLine_records (p := s.part.landed l) l bytes hstep hw)
  · intro e h k high v entry whole past
    refine ⟨fun hphase ht => ?_, fun hphase ht => ⟨Part.walkMountLine_broken hphase ht, Part.walkMountLine_begins hphase ht⟩,
      fun r => Part.walkMountLine_payload, Part.walkMountLine_rest⟩
    rw [Part.walkMountLine_trailered hphase ht]
    refine ⟨Part.trailedLine_broken, Part.trailedLine_full, fun d hwhole hd => ⟨fun hin => ?_, fun hout => ?_⟩⟩
    · rw [Part.trailedLine_accepted hwhole hd, if_neg (Nat.not_le.2 hin)]
      rfl
    · rw [Part.trailedLine_accepted hwhole hd, if_pos hout]
      rfl
  · exact ⟨Part.recordLine_more, Part.recordLine_bad, Part.recordLine_full, fun d => Part.recordLine_accepted⟩
  · exact ⟨fun hy hin => by rw [Part.endUntrailered_youngest hy, if_pos hin],
      fun hy hout => by rw [Part.endUntrailered_youngest hy, if_neg (Nat.not_le.2 hout)], Part.endUntrailered_older, fun used => rfl⟩
  · rw [Part.walkMembers_walks n h hread, if_pos hpresent]
  · rw [Part.walkMembers_walks n h hread, if_neg (Bool.eq_false_iff.1 hlost)]
    rfl
  · simp only [Part.mountLoses, hstate, hstep, if_true]
  · rw [Part.restoreHead_some h, if_pos hhead]
  · rw [Part.restoreHead_some h, if_neg hhead]
  · intro t walked
    obtain ⟨hbus, horders, hlanes, hreclaim⟩ := p.failedTables_frame
    have ht : t = p.failedTables.mountEnded .failed code := p.failMount_eq code
    have hseg : ∀ a, t.seg a = p.failedTables.seg a := fun a => by rw [ht]; rfl
    have hsticky : t.bus.sticky = p.failedTables.bus.sticky ||| 0x20 := by rw [ht]; rfl
    clear_value t
    subst ht
    refine ⟨rfl, rfl, rfl, rfl, rfl, rfl, rfl, rfl, hsticky.trans (by rw [hbus]), horders, hlanes, hreclaim, fun a ha => ?_,
      fun w hw hin => (hseg _).trans (Part.failedTables_seg_walked hw hin)⟩
    exact (hseg a).trans (Part.failedTables_seg_other ha)

end Sys2Proof.Machine
end

section
/-! SUPPORT. The lines an append programs and the ends of its programs (R7, R11, R40, R41, R129 to R134). -/

namespace Sys2Proof.Machine

/-! ## A line passes or fails (R131 to R133) -/

section
variable {p : Part} {sg : SegAddr} {first : Nat} {a : Append}

theorem Part.lineEnds_more (h : a.done + 1 < a.work.lines) : p.lineEnds sg first .pass a =
    (p.useLine sg (first + a.done)).programNext sg first { a with done := a.done + 1, started := true } := by
  have hmore : ¬ a.work.lines ≤ a.done + 1 := Nat.not_le.2 h
  simp only [Part.lineEnds, if_neg hmore]

theorem Part.lineEnds_last (h : a.work.lines ≤ a.done + 1) : p.lineEnds sg first .pass a =
    (p.useLine sg (first + a.done)).completeAppend sg first { a with done := a.done + 1, started := true } := by
  simp only [Part.lineEnds, if_pos h]

/-- A record complete in its segment, its append out of progress (R132). -/
def Part.recordDone (sg : SegAddr) (first : Nat) (a : Append) (p : Part) : Part :=
  { p.modSeg sg (fun e => { e with goodEnd := first + a.work.lines }) with
    head.recordsInHead := p.head.recordsInHead + 1, head.append := none }

theorem Part.completeAppend_order {r : OrderReq} (h : a.work = .order r) : p.completeAppend sg first a =
    Part.finishRecord { okResult with retried := a.repeated, sequence := a.sequence }
      ((p.recordDone sg first a).withRelease r.key (Part.dirAppend (orderEntry r a.sequence ⟨sg, first⟩))) := by
  simp only [Part.completeAppend, h, Part.recordDone]

theorem Part.completeAppend_copy {c : CopyReq} (h : a.work = .copy c) : p.completeAppend sg first a =
    Part.copyAnswer .completed ((p.recordDone sg first a).withRelease c.key (Part.dirRepoint c.key ⟨sg, first⟩)) := by
  simp only [Part.completeAppend, h, Part.recordDone]

end

/-! ## The directory's change at a completion (R23, R24, R26, R30, R52) -/

theorem Part.withRelease_new {p : Part} {key : Long} (change : Part → Part) (h : dirLookup p.dir key = none) :
    p.withRelease key change = change p := by
  simp only [Part.withRelease, h]

theorem Part.withRelease_old {p : Part} {key : Long} {old : DirEntry} (change : Part → Part) (h : dirLookup p.dir key = some old) :
    p.withRelease key change = (change p).releaseIfFell old.loc.addr (p.seg old.loc.addr) := by
  simp only [Part.withRelease, h]

theorem Part.dirAppend_new {p : Part} {e : DirEntry} (h : dirLookup p.dir e.key = none) :
    p.dirAppend e = Part.gainClaim e.loc.addr e.lines { p with dir := dirPut e p.dir } := by
  simp only [Part.dirAppend, h]

theorem Part.dirAppend_old {p : Part} {e old : DirEntry} (h : dirLookup p.dir e.key = some old) : p.dirAppend e =
    Part.gainClaim e.loc.addr e.lines (Part.loseClaim old.loc.addr old.lines { p with dir := dirPut e p.dir }) := by
  simp only [Part.dirAppend, h]

theorem Part.dirRepoint_old {p : Part} {key : Long} {loc : RecLoc} {old : DirEntry} (h : dirLookup p.dir key = some old) :
    p.dirRepoint key loc = Part.gainClaim loc.addr old.lines
      (Part.loseClaim old.loc.addr old.lines { p with dir := dirPut { old with loc := loc } p.dir }) := by
  simp only [Part.dirRepoint, h]

/-! ## The lines placed (R7, R11, R131) -/

theorem Part.programNext_order (p : Part) (sg : SegAddr) (first : Nat) {a : Append} {r : OrderReq} (h : a.work = .order r) :
    let payload := Mem.readBytes p.mem (r.bufOffset.toNat + (256 * a.done - 16))
      (min (r.length - (256 * a.done - 16)) (if a.done = 0 then 240 else 256))
    p.programNext sg first a = Part.place sg.lane .head ⟨.programLine sg.seg (first + a.done)
        (orderLine (recordHeader r.tombstone false r.length r.key a.sequence (p.seg sg).epoch) payload r.length a.done
          (crc32Feed a.crc payload)), a.started⟩
      { p with head.append := some { a with crc := crc32Feed a.crc payload } } := by
  intro payload
  simp only [Part.programNext, Part.buildLine, h]
  rfl

theorem Part.programNext_copy (p : Part) (sg : SegAddr) (first : Nat) {a : Append} {c : CopyReq} (h : a.work = .copy c) :
    p.programNext sg first a = Part.place sg.lane .head
        ⟨.programLine sg.seg (first + a.done) (copyLine c (p.seg sg).epoch a.done), a.started⟩
      { p with head.append := some { a with crc := a.crc } } := by
  have hbuilt : p.buildLine sg a = (copyLine c (p.seg sg).epoch a.done, a.crc) := by simp only [Part.buildLine, h]
  simp only [Part.programNext, hbuilt]
  rfl

theorem recordHeader_length (tomb copied : Bool) (length : Nat) (key sequence epoch : Long) :
    (recordHeader tomb copied length key sequence epoch).length = 16 := by
  simp [recordHeader, leBytes_length]

theorem recordSlice_eq (record : List Byte) (j : Nat) : recordSlice record j = fillLine ((record.drop (256 * j)).take 256) := rfl

/-- The header and payload bytes of a record in its line `j`. -/
def recordBody (header payload : List Byte) (j : Nat) : List Byte :=
  (if j = 0 then header else []) ++ (payload.drop (256 * j - 16)).take (if j = 0 then 240 else 256)

theorem recordBody_eq {header : List Byte} (payload : List Byte) (j : Nat) (h : header.length = 16) :
    recordBody header payload j = ((header ++ payload).drop (256 * j)).take 256 := by
  cases j with
  | zero =>
    have hall : header.take 256 = header := List.take_of_length_le (by omega)
    simp only [recordBody, if_true, Nat.mul_zero, Nat.zero_sub, List.drop_zero, List.take_append, hall, h]
  | succ j =>
    have hnone : header.drop (256 * (j + 1)) = [] := List.drop_eq_nil_of_le (by omega)
    simp only [recordBody, if_neg (Nat.succ_ne_zero j), List.nil_append, List.drop_append, hnone, h]

/-- A line of a record is its header and payload bytes there, then its check bytes as far as the line reaches. -/
theorem recordSlice_body {header : List Byte} (payload check : List Byte) (j : Nat) (h : header.length = 16) :
    recordSlice (header ++ payload ++ check) j = fillLine (recordBody header payload j
      ++ (check.drop (256 * j - (16 + payload.length))).take (256 - (recordBody header payload j).length)) := by
  have hlength : (header ++ payload).length = 16 + payload.length := by rw [List.length_append, h]
  rw [recordSlice_eq, recordBody_eq payload j h, List.drop_append, List.take_append, hlength]
  congr 3
  simp only [List.length_take, List.length_drop, hlength]
  omega

/-- Where a line has room for check bytes, the payload's bytes so far are all of them. -/
theorem take_all_of_room {header : List Byte} (payload : List Byte) (j : Nat) (h : header.length = 16)
    (hroom : (recordBody header payload j).length < 256) : payload.take (256 * (j + 1) - 16) = payload := by
  rw [recordBody_eq payload j h, List.length_take, List.length_drop, List.length_append, h] at hroom
  exact List.take_of_length_le (by omega)

theorem orderLine_eq_recordSlice {header : List Byte} (payload : List Byte) (j : Nat) (h : header.length = 16) :
    orderLine header ((payload.drop (256 * j - 16)).take (if j = 0 then 240 else 256)) payload.length j
        (crc32Feed 0xFFFFFFFF (payload.take (256 * (j + 1) - 16)))
      = recordSlice (header ++ payload ++ leBytes 4 (crc32 payload).toNat) j := by
  rw [recordSlice_body payload _ j h]
  show fillLine (recordBody header payload j ++ ((leBytes 4 (crc32Final (crc32Feed 0xFFFFFFFF
    (payload.take (256 * (j + 1) - 16)))).toNat).drop (256 * j - (16 + payload.length))).take
      (256 - (recordBody header payload j).length)) = _
  by_cases hroom : (recordBody header payload j).length < 256
  · rw [take_all_of_room payload j h hroom]
    rfl
  · rw [Nat.sub_eq_zero_of_le (Nat.not_lt.1 hroom), List.take_zero, List.take_zero]

theorem Part.finishRecord_none {p : Part} (r : Result) (h : p.record = none) : p.finishRecord r = p := by
  simp only [Part.finishRecord, h]

theorem Part.finishRecord_some {p : Part} {o : RecordOrder} (r : Result) (h : p.record = some o) :
    p.finishRecord r = Part.complete o.slot r { p with record := none } := by
  simp only [Part.finishRecord, h]

/-- Settles O39, the record's bytes by splitting a line at the end of its payload. -/
theorem programLineEnds : Obligations.ProgramLineEnds := by
  unfold Obligations.ProgramLineEnds
  refine ⟨fun s l status rq i n ms b disc a sg first hlive hflight ha hstep => ?_,
    fun s l rq i n ms b disc a sg first old hlive hflight ha hstep hlast => ?_,
    fun p sg first a => ⟨fun r => p.programNext_order sg first, fun c => p.programNext_copy sg first, rfl, fun cause => rfl⟩,
    fun tomb copied length key sequence epoch => rfl,
    fun tomb key sequence epoch payload j _ _ => orderLine_eq_recordSlice payload j (recordHeader_length _ _ _ _ _ _),
    fun p a k => ⟨rfl, rfl, rfl⟩, fun p r => ⟨Part.finishRecord_none r, fun o => Part.finishRecord_some r⟩, fun c epoch j => rfl⟩
  · rw [exec_programLineEnd hlive hflight, Part.programEnds_programming _ _ (by exact ha) hstep]
    refine ⟨fun hfail => ?_, fun hpass hmore => ?_, fun r hpass hw hlast hnew => ?_⟩
    · rw [if_neg hfail]
      rfl
    · rw [if_pos hpass, Part.lineEnds_more hmore]
    · have hlines : a.work.lines = r.lines := by rw [hw]; rfl
      rw [if_pos hpass, Part.lineEnds_last (by rwa [hlines]), Part.completeAppend_order (by exact hw),
        Part.withRelease_new _ (by exact hnew), Part.dirAppend_new (by exact hnew), Part.recordDone]
      simp only [hlines]
      rfl
  · intro u made
    have hexec : ∀ r : Part, ((s.part.landed l).useLine sg (first + a.done)).completeAppend sg first
          { a with done := a.done + 1, started := true } = r →
        exec (.programLineEnd l 0) s = .next (s.withPart r.refreshErase) := fun r hr => by
      rw [exec_programLineEnd hlive hflight, Part.programEnds_programming _ _ (by exact ha) hstep, if_pos rfl,
        Part.lineEnds_last hlast, hr]
    refine ⟨fun r hw hold => hexec _ ?_, fun c hw hold => hexec _ ?_⟩
    · rw [Part.completeAppend_order (by exact hw), Part.withRelease_old _ (by exact hold), Part.dirAppend_old (by exact hold)]
      rfl
    · rw [Part.completeAppend_copy (by exact hw), Part.withRelease_old _ (by exact hold), Part.dirRepoint_old (by exact hold)]
      rfl

/-! ## A header or a trailer ends (R40, R41, R129, R130) -/

theorem Part.openEnds_begins {p : Part} {a : Append} (sg : SegAddr) (h : a.setBack = none) :
    p.openEnds sg .pass a = Part.beginRecord sg 1 a (Part.wakeRoom
      { p.modSeg sg (fun e => { e with state := .head, used := 0, goodEnd := 1, claimed := 0, trailered := false })
        with head.recordsInHead := 0 }) := by
  simp only [Part.openEnds, h]

theorem Part.closeTold_not_stalled {p : Part} (sg : SegAddr) (cause : CloseCause) (status : Byte)
    (h : p.reclaim.state ≠ .stalled) : p.closeTold sg cause status = { p.modSeg sg (fun e => { e with
      state := .closed, trailered := decide (status = 0),
      retire := e.retire || decide (cause ≠ .noRoom) || decide (status ≠ 0) }) with head.recordsInHead := 0 } := by
  simp only [Part.closeTold]
  split
  · exact Part.releaseIfClosed_not_stalled _ h
  · rfl

/-- Settles O40. -/
theorem programLineEndsOpenClose : Obligations.ProgramLineEndsOpenClose := by
  unfold Obligations.ProgramLineEndsOpenClose
  intro s l status rq i n ms b disc a sg hlive hflight ha hsb
  have happend : (s.part.landed l).head.append = some a := ha
  rw [exec_programLineEnd hlive hflight]
  refine ⟨fun hstep => ⟨fun hpass => ?_, fun hfail => ?_⟩, fun cause hstep => ?_, fun cause hstep hstalled => ?_⟩
  · rw [if_pos hpass, Part.programEnds_opening _ _ happend hstep, Part.openEnds_begins _ hsb]
  · rw [if_neg hfail, Part.programEnds_opening _ _ happend hstep, Part.openEnds_lost _ _ _ (by simp), Part.onward_opens _ hsb]
  · rw [Part.programEnds_closing _ _ happend hstep, Part.closeEnds_status, Part.onward_opens _ hsb]
    rfl
  · rw [Part.programEnds_closing _ _ happend hstep, Part.closeEnds_status, Part.onward_opens _ hsb,
      Part.closeTold_not_stalled (p := s.part.landed l) _ _ _ hstalled]

end Sys2Proof.Machine
end

section
/-! SUPPORT. How reclaim goes on: evaluations, signals, walk ends, the answers to a copy, halts, and the ends of erases (R45, R51,
R52, R149 to R159, R162). -/

namespace Sys2Proof.Machine

/-! ## Rooms and waits (R128, R153) -/

theorem Part.afterRise_plain {p : Part} (h : p.reclaim.copyWait = false) : p.afterRise = p.wakeRoom := by
  have hwoken : p.wakeRoom.reclaim.copyWait = false := h
  simp only [Part.afterRise, hwoken, Bool.false_eq_true, if_false]

theorem Part.afterRise_submits {p : Part} {t : SegAddr} {h : Hand} (hw : p.reclaim.copyWait = true)
    (ht : p.reclaim.tail = some t) (hh : p.reclaim.inHand = some h) :
    p.afterRise = { p.wakeRoom with head.copyReq := some (copyOf t h), reclaim.copyWait := false } := by
  have hwoken : p.wakeRoom.reclaim.copyWait = true := hw
  simp only [Part.afterRise, hwoken, if_true]
  exact Part.submitCopy_inHand ht hh

theorem Part.eraseComing_iff (p : Part) : p.eraseComing = true ↔
    ∃ x ∈ p.entries, (x.2.state = .eraseWait ∨ x.2.state = .erasing ∨ x.2.state = .unswept) ∧ p.present x.1.lane = true := by
  simp [Part.eraseComing, List.any_eq_true, or_assoc]

theorem Part.recheckCopyWait_halts {p : Part} (hw : p.reclaim.copyWait = true) (hc : p.eraseComing = false) :
    p.recheckCopyWait = p.haltReclaim := by
  simp only [Part.recheckCopyWait, hw, hc, Bool.not_false, Bool.and_self, if_true]

theorem Part.recheckCopyWait_waits {p : Part} (h : p.reclaim.copyWait = false ∨ p.eraseComing = true) :
    p.recheckCopyWait = p := by
  refine if_neg ?_
  rcases h with h | h <;> simp [h]

/-! ## Evaluations (R150) -/

theorem Part.evaluate_of_idle {p : Part} (o : Origin) (h : p.decideChain = .idle) : p.evaluate o = p.toReclaim .idle := by
  simp only [Part.evaluate, h, Part.settleDecision]

theorem Part.evaluate_of_stalled {p : Part} (o : Origin) (h : p.decideChain = .stalled) :
    p.evaluate o = (p.toReclaim .stalled).raise .saturated := by
  simp only [Part.evaluate, h, Part.settleDecision]

theorem Part.evaluate_of_halt {p : Part} (o : Origin) (h : p.decideChain = .halt) : p.evaluate o = p.haltReclaim := by
  simp only [Part.evaluate, h, Part.settleDecision]

theorem Part.evaluate_of_take {p : Part} {a : SegAddr} (o : Origin) (h : p.decideChain = .take a) :
    p.evaluate o = (p.takeTail a o).walk := by
  simp only [Part.evaluate, h, Part.settleDecision]

theorem Part.decideChain_short {p : Part} (h : p.chain.length < 2) : p.decideChain = .idle := if_pos h

theorem Part.decideChain_saturated {p : Part} (h : 2 ≤ p.chain.length) (hs : p.saturation = true) : p.decideChain = .stalled := by
  rw [Part.decideChain, if_neg (Nat.not_lt.2 h), if_pos hs]

theorem Part.decideChain_lowest {p : Part} {a : SegAddr} {e : SegEntry} (h : 2 ≤ p.chain.length) (hs : p.saturation = false)
    (hl : lowestEpoch p.chain = some (a, e)) : p.decideChain =
      if p.present a.lane = false then .halt else if e.state = .closed then .take a else .idle := by
  simp only [Part.decideChain, if_neg (Nat.not_lt.2 h), hs, Bool.false_eq_true, if_false, hl]
  cases p.present a.lane <;> rfl

theorem Part.saturation_iff (p : Part) : p.saturation = true ↔ ∀ x ∈ p.entries, x.2.state = .closed → x.2.claimed = 126 := by
  simp only [Part.saturation, List.all_eq_true, Bool.or_eq_true, bne_iff_ne, beq_iff_eq]
  exact forall₂_congr fun x _ => Decidable.imp_iff_not_or.symm

/-! ## Signals (R51, R52, R151) -/

theorem Part.lowWater_iff (p : Part) : p.lowWater = true ↔ p.freeCount ≤ p.orders.lowMark := decide_eq_true_iff

theorem Part.mounted_iff (p : Part) : p.mounted = true ↔ p.mount.state = .mounted ∨ p.mount.state = .degraded := by
  simp [Part.mounted]

theorem Part.compareLow_eq (p : Part) : p.compareLow =
    if (p.mount.state = .mounted ∨ p.mount.state = .degraded) ∧ p.reclaim.suspended = false ∧ p.freeCount ≤ p.orders.lowMark then
      p.trigger else p :=
  if_congr (by rw [Bool.and_eq_true, Bool.and_eq_true, p.mounted_iff, p.lowWater_iff, Bool.not_eq_true', and_assoc]) rfl rfl

theorem Part.trigger_latched {p : Part} (h : p.power.state ≠ .active) : p.trigger = { p with reclaim.latchedTrigger := true } :=
  if_neg (Bool.eq_false_iff.1 (p.active_eq_false_iff.2 h))

theorem Part.trigger_evaluates {p : Part} (h : p.power.state = .active)
    (hs : p.reclaim.state = .idle ∨ p.reclaim.state = .stalled) : p.trigger = p.evaluate .trigger := by
  rw [Part.trigger, if_pos (p.active_iff.2 h)]
  rcases hs with hs | hs <;> simp only [hs]

theorem Part.trigger_ignored {p : Part} (h : p.power.state = .active)
    (hs : p.reclaim.state = .copying ∨ p.reclaim.state = .halted) : p.trigger = p := by
  rw [Part.trigger, if_pos (p.active_iff.2 h)]
  rcases hs with hs | hs <;> simp only [hs]

theorem Part.actRelease_eq (p : Part) : p.actRelease =
    if p.freeCount ≤ p.orders.lowMark then p.evaluate .trigger else p.toReclaim .idle := if_congr p.lowWater_iff rfl rfl

theorem Part.release_pending {p : Part} (hs : p.reclaim.state = .stalled) (h : p.power.state ≠ .active) :
    p.release = { p with reclaim.releasePending := true } := by
  simp only [Part.release, hs, p.active_eq_false_iff.2 h, Bool.false_eq_true, if_false]

theorem Part.release_acts {p : Part} (hs : p.reclaim.state = .stalled) (h : p.power.state = .active) :
    p.release = p.actRelease := by
  simp only [Part.release, hs, p.active_iff.2 h, if_true]

theorem Part.reclaimReturns_idle {p : Part} (hs : p.reclaim.state = .idle) : p.reclaimReturns =
    if p.reclaim.latchedTrigger then Part.evaluate .trigger { p with reclaim.latchedTrigger := false } else p := by
  simp only [Part.reclaimReturns, hs]

theorem Part.reclaimReturns_stalled {p : Part} (hs : p.reclaim.state = .stalled) :
    let q : Part := { p with reclaim.latchedTrigger := false, reclaim.releasePending := false }
    p.reclaimReturns = if p.reclaim.releasePending then
        (if p.freeCount ≤ p.orders.lowMark then q.evaluate .trigger else q.toReclaim .idle)
      else if p.reclaim.latchedTrigger then q.evaluate .trigger else p := by
  intro q
  have hacts : q.actRelease = if p.freeCount ≤ p.orders.lowMark then q.evaluate .trigger else q.toReclaim .idle := q.actRelease_eq
  rw [← hacts]
  unfold Part.reclaimReturns
  split
  · next h => exact absurd (hs.symm.trans h) (by decide)
  · rfl
  · next h => exact absurd (hs.symm.trans h) (by decide)
  · next h => exact absurd (hs.symm.trans h) (by decide)

theorem Part.reclaimReturns_busy {p : Part} (hs : p.reclaim.state = .copying ∨ p.reclaim.state = .halted) :
    p.reclaimReturns = { p with reclaim.latchedTrigger := false } := by
  rcases hs with hs | hs <;> simp only [Part.reclaimReturns, hs]

/-! ## Walk ends (R155) -/

/-- What follows an act's evaluation: the tail to be taken, if there is one, is walked. -/
def Part.goOn : Part × Option SegAddr → Part
  | (q, none) => q
  | (q, some a) => (q.takeTail a .trigger).walk

theorem Part.evaluate_goOn (p : Part) : p.evaluate .trigger = Part.goOn (p.settleDecision p.decideChain) := by
  unfold Part.evaluate Part.goOn
  rcases p.settleDecision p.decideChain with ⟨q, _ | a⟩ <;> rfl

theorem Part.walk_goOn {p : Part} {t : SegAddr} (ht : p.reclaim.tail = some t) (h : (p.seg t).goodEnd ≤ p.reclaim.pos) :
    p.walk = Part.goOn (p.endWalk t).afterWalk := by
  rw [Part.walk_at ht h]
  rcases (p.endWalk t).afterWalk with ⟨q, _ | a⟩ <;> rfl

theorem Part.walkStops_goOn {p : Part} {t : SegAddr} (h : (p.seg t).claimed = 0) :
    p.walkStops t = Part.goOn (p.endWalk t).afterWalk := by
  rw [Part.walkStops, if_pos h]
  rcases (p.endWalk t).afterWalk with ⟨q, _ | a⟩ <;> rfl

/-- How the unit goes on after a walk end, its evaluations acted on (R155). -/
theorem Part.afterWalk_goOn (p : Part) : Part.goOn p.afterWalk =
    if p.reclaim.origin = .trigger then
      if p.freeCount < p.orders.highMark ∧ p.saturation = false then p.evaluate .trigger else p.toReclaim .idle
    else
      let f := p.toReclaim .idle
      if f.freeCount ≤ f.orders.lowMark then
        (if f.power.state = .active then f.evaluate .trigger else { f with reclaim.latchedTrigger := true })
      else f := by
  unfold Part.afterWalk
  cases p.reclaim.origin with
  | trigger =>
    simp only [if_true]
    split
    · rw [Part.evaluate_goOn]
    · rfl
  | order =>
    simp only [reduceCtorEq, if_false]
    generalize p.toReclaim .idle = f
    by_cases hlow : f.freeCount ≤ f.orders.lowMark
    · rw [if_pos (f.lowWater_iff.2 hlow), if_pos hlow]
      by_cases hactive : f.power.state = .active
      · rw [if_pos (f.active_iff.2 hactive), if_pos hactive, Part.evaluate_goOn]
      · rw [if_neg (mt f.active_iff.1 hactive), if_neg hactive]
        rfl
    · rw [if_neg (mt f.lowWater_iff.1 hlow), if_neg hlow]
      rfl

theorem Part.walkHeader_stops {p : Part} {t : SegAddr} {bytes : List Byte}
    (h : blankLine bytes = true ∨ headerValid (p.seg t).epoch p.reclaim.pos bytes = false) :
    p.walkHeader t bytes = p.walkStops t := by
  refine if_pos ?_
  rcases h with h | h <;> simp [h]

/-! ## The answers to a copy (R153) -/

theorem Part.copyAnswer_ignored {p : Part} (ans : CopyAnswer) (h : p.reclaim.tail = none ∨ p.reclaim.inHand = none) :
    p.copyAnswer ans = p := by
  unfold Part.copyAnswer
  split
  · next t x ht hh => rcases h with h | h <;> simp_all
  · rfl

section
variable {p : Part} {t : SegAddr} {h : Hand}

theorem Part.copyAnswer_completed (ht : p.reclaim.tail = some t) (hh : p.reclaim.inHand = some h) : p.copyAnswer .completed =
    Part.walk { p with
      reclaim.copied := p.reclaim.copied + h.lines, reclaim.inHand := none, reclaim.pos := p.reclaim.pos + h.lines } := by
  simp only [Part.copyAnswer, ht, hh, Part.moveOn]

theorem Part.copyAnswer_discarded (ht : p.reclaim.tail = some t) (hh : p.reclaim.inHand = some h) : p.copyAnswer .discarded =
    Part.walk { p with reclaim.inHand := none, reclaim.pos := p.reclaim.pos + h.lines } := by
  simp only [Part.copyAnswer, ht, hh, Part.moveOn]

theorem Part.copyAnswer_journalFull (ht : p.reclaim.tail = some t) (hh : p.reclaim.inHand = some h) : p.copyAnswer .journalFull =
    if ∃ x ∈ p.entries, (x.2.state = .eraseWait ∨ x.2.state = .erasing ∨ x.2.state = .unswept) ∧ p.present x.1.lane = true then
      { p with reclaim.copyWait := true } else p.haltReclaim := by
  simp only [Part.copyAnswer, ht, hh]
  exact if_congr p.eraseComing_iff rfl rfl

theorem Part.copyAnswer_laneLost (ht : p.reclaim.tail = some t) (hh : p.reclaim.inHand = some h) : p.copyAnswer .laneLost =
    if p.present t.lane then { p with head.copyReq := some (copyOf t h), reclaim.copyWait := false } else p.haltReclaim := by
  simp only [Part.copyAnswer, ht, hh, Part.submitCopy]

theorem Part.copyAnswer_halts (ht : p.reclaim.tail = some t) (hh : p.reclaim.inHand = some h) :
    p.copyAnswer .programFault = p.haltReclaim ∧ p.copyAnswer .sequenceSpent = p.haltReclaim := by
  simp only [Part.copyAnswer, ht, hh, and_self]

end

/-! ## Halts (R156) -/

theorem Part.toReclaim_eq (p : Part) (st : ReclaimState) : p.toReclaim st = if p.reclaim.state = .copying ∧ st ≠ .copying then
      { p with reclaim.state := st, head.orderReq := p.head.orderReq.map fun r => { r with waitingRoom := false } }
    else { p with reclaim.state := st } := rfl

/-- The unit halted, before its attached order is told. -/
def Part.halted (p : Part) : Part := (p.dropWalk.toReclaim .halted).raise .reclaimHalted

theorem Part.halted_eq (p : Part) : p.halted = { p.dropWalk with
    reclaim.state := .halted, bus.sticky := p.bus.sticky ||| 0x10,
    head.orderReq := if p.reclaim.state = .copying then p.head.orderReq.map fun r => { r with waitingRoom := false }
      else p.head.orderReq } := by
  have hreclaim : p.dropWalk.reclaim.state = p.reclaim.state := by simp
  have hhead : p.dropWalk.head.orderReq = p.head.orderReq := by simp
  rw [Part.halted, Part.toReclaim_eq, hreclaim, hhead, ← p.dropWalk_bus]
  by_cases h : p.reclaim.state = .copying
  · simp only [h, true_and, ne_eq, reduceCtorEq, not_false_eq_true, if_true]
    rfl
  · simp only [h, false_and, if_false]
    rw [← hhead]
    rfl

theorem Part.endHaltedOrder_ends {p : Part} {o : Attached} (ha : p.reclaim.attached = some o) :
    p.endHaltedOrder (some o.seg) =
      Part.complete o.slot (faultResult .reclaimHalted) { p with reclaim.attached := none } := by
  simp only [Part.endHaltedOrder, ha, if_true]

theorem Part.endHaltedOrder_keeps {p : Part} {tail : Option SegAddr} (h : ∀ o, p.reclaim.attached = some o → tail ≠ some o.seg) :
    p.endHaltedOrder tail = p := by
  unfold Part.endHaltedOrder
  split
  · rfl
  · next o ho => exact if_neg fun he => h o ho he.symm

theorem Part.halted_attached (p : Part) : p.halted.reclaim.attached = p.reclaim.attached := by
  rw [Part.halted_eq]
  simp

/-- Beyond its attached order a halt leaves the unit halted and the rest as it was when halted. -/
theorem Part.haltReclaim_frame (p : Part) : { p.haltReclaim.reclaim with attached := none } = ({ p.halted.reclaim with attached := none } : Reclaim)
    ∧ p.haltReclaim.head = p.halted.head ∧ p.haltReclaim.bus = p.halted.bus ∧ p.haltReclaim.lanes = p.halted.lanes
    ∧ p.haltReclaim.segs = p.halted.segs := by
  show { (p.halted.endHaltedOrder p.reclaim.tail).reclaim with attached := none } = _ ∧ _
  unfold Part.haltReclaim
  show _ ∧ (p.halted.endHaltedOrder p.reclaim.tail).head = _ ∧ (p.halted.endHaltedOrder p.reclaim.tail).bus = _
    ∧ (p.halted.endHaltedOrder p.reclaim.tail).lanes = _ ∧ (p.halted.endHaltedOrder p.reclaim.tail).segs = _
  generalize p.halted = q
  unfold Part.endHaltedOrder
  split
  · exact ⟨rfl, rfl, rfl, rfl, rfl⟩
  · split
    · simp
    · exact ⟨rfl, rfl, rfl, rfl, rfl⟩

theorem Part.halted_lane_waiting (p : Part) (l : Lane) : (p.halted.lane l).waiting.reclaim = none := by
  have hlanes : p.halted.lanes = p.lanes.map (LaneRec.dropWork .reclaim) := by
    rw [Part.halted_eq]
    simp
  rw [Part.lane, hlanes, Quad.get_map]
  rfl

theorem Part.halted_seg (p : Part) (a : SegAddr) : p.halted.seg a =
    if p.reclaim.tail = some a ∧ (p.seg a).state = .reclaiming then { p.seg a with state := .closed } else p.seg a := by
  have hsegs : p.halted.segs = p.dropWalk.segs := by rw [Part.halted_eq]
  rw [Part.seg_congr hsegs, Part.dropWalk_seg]
  split <;> rfl

theorem Part.halted_orders (p : Part) : p.halted.orders = p.orders ∧ p.halted.mem = p.mem := by
  rw [Part.halted_eq]
  refine ⟨?_, by simp⟩
  show p.dropWalk.orders = p.orders
  rw [Part.dropWalk_eq, Part.reopenTail_eq]
  rfl

theorem Part.halted_reclaim (p : Part) : p.halted.reclaim =
    { p.reclaim with state := .halted, tail := none, inHand := none, copyWait := false } := by
  rw [Part.halted_eq]
  simp

theorem Part.halted_head (p : Part) : p.halted.head.copyReq = none
    ∧ p.halted.head.orderReq = (if p.reclaim.state = .copying then p.head.orderReq.map fun r => { r with waitingRoom := false }
      else p.head.orderReq) := by
  rw [Part.halted_eq]
  simp

/-- An order attached to the halted tail ends (R156). -/
theorem Part.haltReclaim_ends (p : Part) {o : Attached} (ho : p.reclaim.attached = some o) (htail : p.reclaim.tail = some o.seg) :
    p.haltReclaim.reclaim.attached = none ∧ p.haltReclaim.orders.doneList = p.orders.doneList ++ [o.slot]
    ∧ p.haltReclaim.mem = (p.complete o.slot (faultResult .reclaimHalted)).mem := by
  obtain ⟨horders, hmem⟩ := p.halted_orders
  have hends : p.haltReclaim =
      Part.complete o.slot (faultResult .reclaimHalted) { p.halted with reclaim.attached := none } := by
    show p.halted.endHaltedOrder p.reclaim.tail = _
    rw [htail, Part.endHaltedOrder_ends (p.halted_attached.trans ho)]
  rw [hends]
  refine ⟨by simp, ?_, ?_⟩
  · rw [Part.complete_doneList, horders]
  · rw [Part.complete_mem, Part.complete_mem, hmem]

theorem Part.haltReclaim_keeps (p : Part) (h : ∀ o, p.reclaim.attached = some o → p.reclaim.tail ≠ some o.seg) :
    p.haltReclaim.reclaim.attached = p.reclaim.attached ∧ p.haltReclaim.orders = p.orders ∧ p.haltReclaim.mem = p.mem := by
  have hkeeps : p.haltReclaim = p.halted := Part.endHaltedOrder_keeps fun o ho => h o (p.halted_attached.symm.trans ho)
  rw [hkeeps]
  exact ⟨p.halted_attached, p.halted_orders⟩

/-! ## The ends of erases (R45, R157, R159, R162) -/

theorem exec_eraseSegmentEnd {s : State} {l : Lane} {status : Byte} {rq : Requester} {i ms : Nat} {disc : Bool}
    (hlive : s.part.live = true) (hflight : (s.part.lane l).inFlight = some ⟨rq, .eraseSegment i, ms, disc⟩) :
    exec (.eraseSegmentEnd l status) s = .next (s.withPart
      ((s.part.landed l).eraseEnds ⟨l, i⟩ (passStatus status)).refreshErase) := by
  show run _ s = _
  rw [run_act_live hlive]
  simp only [Part.eraseLineEnds, hflight]

theorem Part.eraseEnds_free {p : Part} {a : SegAddr} {status : Byte} (hpass : status = 0) (hretire : (p.seg a).retire = false) :
    p.eraseEnds a (passStatus status) =
      Part.afterRise (Part.reportErase a .free (p.modSeg a fun _ => ⟨.free, 0, 0, 0, 1, false, 0, false⟩)) := by
  subst hpass
  refine if_pos ?_
  rw [hretire]
  rfl

theorem Part.eraseEnds_bad {p : Part} {a : SegAddr} {status : Byte} (h : status ≠ 0 ∨ (p.seg a).retire = true) :
    p.eraseEnds a (passStatus status) =
      Part.recheckCopyWait (Part.reportErase a .bad (p.modSeg a fun _ => ⟨.bad, 0, 0, 0, 1, false, 0, false⟩)) := by
  refine if_neg ?_
  rw [Bool.and_eq_true, passStatus, beq_iff_eq, Bool.not_eq_true', not_and_or, Bool.not_eq_false]
  exact h

section
variable {p : Part} (a : SegAddr) (rep : EraseReport)

theorem Part.reportAttached_free (h : p.reclaim.attached = none) : p.reportAttached a rep = p := by
  simp only [Part.reportAttached, h]

theorem Part.reportAttached_other {o : Attached} (h : p.reclaim.attached = some o) (hne : o.seg ≠ a) :
    p.reportAttached a rep = p := by
  simp only [Part.reportAttached, h, if_neg hne]

theorem Part.reportAttached_ends {o : Attached} (h : p.reclaim.attached = some o) (heq : o.seg = a) :
    p.reportAttached a rep = Part.complete o.slot
      { okResult with length := if rep = .free then BitVec.ofNat 16 (126 - o.recorded.getD 0) else 0 }
      { p with reclaim.attached := none } := by
  simp only [Part.reportAttached, h, if_pos heq]
  cases rep <;> rfl

theorem Part.reportFormat_none (h : p.format = none) : p.reportFormat a rep = p := by
  simp only [Part.reportFormat, h]

theorem Part.reportFormat_unconcerned {job : FormatJob} (h : p.format = some job) (hout : job.taken = false ∨ a ∉ job.waitSet) :
    p.reportFormat a rep = p := by
  simp only [Part.reportFormat, h]
  refine if_neg ?_
  rcases hout with hout | hout <;> simp [hout]

/-- A report of a segment a FORMAT waits on: its set shrinks, and with the set empty the FORMAT completes (R162). -/
theorem Part.reportFormat_shrinks {job : FormatJob} (h : p.format = some job) (htaken : job.taken = true) (hin : a ∈ job.waitSet) :
    let rest := job.waitSet.filter (· ≠ a)
    let bad := job.bad + if rep = .bad then 1 else 0
    p.reportFormat a rep = if rest = [] then p.endFormat { job with waitSet := rest, bad := bad }
      else { p with format := some { job with waitSet := rest, bad := bad } } := by
  intro rest bad
  have hfilter : job.waitSet.filter (· != a) = rest := List.filter_congr fun x _ => by rw [bne, beq_eq_decide, decide_not]
  have hcond : (job.taken && job.waitSet.contains a) = true := by simp [htaken, hin]
  simp only [Part.reportFormat, h, if_pos hcond, hfilter]
  exact if_congr List.isEmpty_iff rfl rfl

end

theorem Part.endFormat_unattached {p : Part} {job : FormatJob} (h : p.reclaim.attached = none) : p.endFormat job =
    Part.complete job.slot { okResult with length := BitVec.ofNat 16 job.bad }
      { p with format := none, reclaim := Reclaim.reset } := by
  simp only [Part.endFormat, h]
  rfl

theorem Part.wakeRoom_none {p : Part} (h : p.head.orderReq = none) : p.wakeRoom = p := by
  simp only [Part.wakeRoom, h, Option.map_none]
  rw [← h]

/-- Settles O41. -/
theorem eraseEnds : Obligations.EraseEnds := by
  unfold Obligations.EraseEnds
  intro s l status rq i ms disc hlive hflight hattached hformat hwait hreq
  rw [exec_eraseSegmentEnd hlive hflight]
  have hreport : ∀ (rep : EraseReport) (f : SegEntry → SegEntry),
      Part.reportErase ⟨l, i⟩ rep ((s.part.landed l).modSeg ⟨l, i⟩ f) = (s.part.landed l).modSeg ⟨l, i⟩ f := fun rep f => by
    rw [Part.reportErase, Part.reportAttached_free _ _ (by exact hattached), Part.reportFormat_none _ _ (by exact hformat)]
  refine ⟨fun hpass hretire => ?_, fun hbad => ?_⟩
  · rw [Part.eraseEnds_free hpass (by exact hretire), hreport, Part.afterRise_plain (by exact hwait),
      Part.wakeRoom_none (by exact hreq)]
  · rw [Part.eraseEnds_bad (by exact hbad), hreport, Part.recheckCopyWait_waits (.inl (by exact hwait))]

/-- Settles O42, one statement above for each branch of R150 to R159. -/
theorem reclaimGoesOn : Obligations.ReclaimGoesOn := by
  unfold Obligations.ReclaimGoesOn
  intro ended
  have hended : ∀ (p : Part) (t : SegAddr), Part.goOn (p.endWalk t).afterWalk = ended p t := fun p t => Part.afterWalk_goOn _
  refine ⟨fun p => ⟨rfl, Part.afterRise_plain, fun t h => Part.afterRise_submits, fun hw hc => ?_, fun h => ?_⟩,
    fun p o => ⟨fun h => Part.evaluate_of_idle o (Part.decideChain_short h),
      fun h hs => Part.evaluate_of_stalled o (Part.decideChain_saturated h hs),
      fun a e h hs hl => ⟨fun hlost => ?_, fun hpresent hstate => ?_, fun hpresent hstate => ?_⟩, p.saturation_iff, p.toReclaim_eq⟩,
    fun p => ⟨p.compareLow_eq, Part.trigger_latched, Part.trigger_evaluates, Part.trigger_ignored, Part.release_not_stalled,
      Part.release_pending, fun hs h => (Part.release_acts hs h).trans p.actRelease_eq, fun a before => rfl, fun a => rfl,
      Part.reclaimReturns_idle, Part.reclaimReturns_stalled, Part.reclaimReturns_busy⟩,
    fun p t ht => ⟨Part.walk_below ht, fun h => (Part.walk_goOn ht h).trans (hended p t)⟩,
    fun s l bytes seg line ms t hlive hlen hflight ht hh hclaimed hstops => ?_,
    fun p t h ht hh => ⟨Part.copyAnswer_completed ht hh, Part.copyAnswer_discarded ht hh, Part.copyAnswer_journalFull ht hh,
      Part.copyAnswer_laneLost ht hh, Part.copyAnswer_halts ht hh⟩,
    fun p ans => Part.copyAnswer_ignored ans, fun p => ?_, fun s l status rq i ms disc hlive hflight => ?_, fun p a rep => ?_⟩
  · exact Part.recheckCopyWait_halts hw (Bool.eq_false_iff.2 (mt p.eraseComing_iff.1 hc))
  · exact Part.recheckCopyWait_waits (h.imp_right p.eraseComing_iff.2)
  · exact Part.evaluate_of_halt o (by rw [Part.decideChain_lowest h hs hl, if_pos hlost])
  · exact Part.evaluate_of_idle o (by rw [Part.decideChain_lowest h hs hl, if_neg (by simp [hpresent]), if_neg hstate])
  · exact Part.evaluate_of_take o (by rw [Part.decideChain_lowest h hs hl, if_neg (by simp [hpresent]), if_pos hstate])
  · rw [exec_readLineEnd l hlive hlen, Part.readEnds_delivered bytes hflight]
    refine congrArg (fun r : Part => Host.Outcome.next (s.withPart r.refreshErase)) ?_
    exact (Part.walkLine_header (p := s.part.landed l) bytes ht hh).trans ((Part.walkHeader_stops (p := s.part.landed l) hstops).trans
      ((Part.walkStops_goOn (p := s.part.landed l) hclaimed).trans (hended _ t)))
  · intro h
    obtain ⟨hreclaim, hhead, hbus, hlanes, hsegs⟩ := p.haltReclaim_frame
    rw [p.halted_reclaim] at hreclaim
    refine ⟨(congrArg Reclaim.state hreclaim :), (congrArg Reclaim.tail hreclaim :), (congrArg Reclaim.inHand hreclaim :),
      (congrArg Reclaim.copyWait hreclaim :), ?_, ?_, fun l => ?_, ?_, fun a => ?_, fun o ho htail => p.haltReclaim_ends ho htail,
      fun hno => p.haltReclaim_keeps hno⟩
    · exact (congrArg Head.copyReq hhead).trans p.halted_head.1
    · exact (congrArg Bus.sticky hbus).trans (congrArg (fun q : Part => q.bus.sticky) p.halted_eq)
    · exact (congrArg (fun q : Quad LaneRec => (q.get l).waiting.reclaim) hlanes).trans (p.halted_lane_waiting l)
    · exact (congrArg Head.orderReq hhead).trans p.halted_head.2
    · exact (Part.seg_congr hsegs a).trans (p.halted_seg a)
  · rw [exec_eraseSegmentEnd hlive hflight]
    intro q a
    exact ⟨fun hpass hretire => by rw [Part.eraseEnds_free hpass (by exact hretire)],
      fun hbad => by rw [Part.eraseEnds_bad (by exact hbad)]⟩
  · refine ⟨fun ha hf => ?_, fun o ha hf => ⟨fun hne => ?_, fun heq => ?_⟩, fun job ha hf htaken hin => ⟨fun hrest => ?_, fun hrest => ?_⟩,
      fun job ha hf hout => ?_⟩
    · rw [Part.reportErase, Part.reportAttached_free a rep ha, Part.reportFormat_none a rep hf]
    · rw [Part.reportErase, Part.reportAttached_other a rep ha hne, Part.reportFormat_none a rep hf]
    · rw [Part.reportErase, Part.reportAttached_ends a rep ha heq, Part.reportFormat_none a rep (by simpa using hf)]
    · rw [Part.reportErase, Part.reportAttached_free a rep ha, Part.reportFormat_shrinks a rep hf htaken hin, if_neg hrest]
    · rw [Part.reportErase, Part.reportAttached_free a rep ha, Part.reportFormat_shrinks a rep hf htaken hin, if_pos hrest,
        Part.endFormat_unattached ha]
    · rw [Part.reportErase, Part.reportAttached_free a rep ha, Part.reportFormat_unconcerned a rep hf hout]

end Sys2Proof.Machine
end

section
/-! SUPPORT. The dispatch checks, and what a dispatch command does: nothing, a refusal, or the head order handed to its unit
(R93, R103 to R107). -/

namespace Sys2Proof.Machine

/-! ## The checks (R105, R106) -/

theorem validLong_iff (v : Long) : validLong v = true ↔ v ≠ 0 ∧ v ≠ 0xFFFFFFFF := by
  simp only [validLong, Bool.and_eq_true, bne_iff_ne]

theorem validLong_eq_false_iff (v : Long) : validLong v = false ↔ ¬ (v ≠ 0 ∧ v ≠ 0xFFFFFFFF) := by
  rw [← validLong_iff, Bool.not_eq_true]

theorem OrderFields.bufferOk_eq_false_iff (f : OrderFields) :
    f.bufferOk = false ↔ ¬ (0x0900 ≤ f.bufOffset.toNat ∧ f.bufOffset.toNat + f.bufLength.toNat ≤ 0x8000) := by
  rw [← Bool.not_eq_true, OrderFields.bufferOk, Bool.and_eq_true, decide_eq_true_eq, decide_eq_true_eq]
  rfl

theorem OrderFields.rangeOk_eq_false_iff (f : OrderFields) :
    f.rangeOk = false ↔ ¬ (f.key ≤ f.keyHi ∧ 1 ≤ f.step.toNat ∧ 1 ≤ f.patLength.toNat ∧ f.patLength.toNat ≤ 16
      ∧ 1 ≤ f.mode.toNat ∧ f.mode.toNat ≤ 5) := by
  have hstep : (f.step != 0) = true ↔ 1 ≤ f.step.toNat := by
    rw [bne_iff_ne, ne_eq, ← BitVec.toNat_inj]
    exact Nat.pos_iff_ne_zero.symm
  rw [← Bool.not_eq_true]
  simp only [OrderFields.rangeOk, Bool.and_eq_true, decide_eq_true_eq, hstep, and_assoc]

/-- The checks that can fail for a kind from 1 to 7, by the kind. -/
theorem dispatchCheck_of_kind (m : Bool) {f : OrderFields} {k : Nat} (hk : f.kind.toNat = k) (h1 : 1 ≤ k) (h7 : k ≤ 7) :
    dispatchCheck m f =
      if (k = 1 ∨ k = 2 ∨ k = 3) ∧ ¬ (f.key ≠ 0 ∧ f.key ≠ 0xFFFFFFFF) then some .badKey
      else if k = 4 ∧ ¬ ((f.key ≠ 0 ∧ f.key ≠ 0xFFFFFFFF) ∧ f.keyHi ≠ 0 ∧ f.keyHi ≠ 0xFFFFFFFF) then some .badKey
      else if k = 1 ∧ 4076 < f.bufLength.toNat then some .badLength
      else if (k = 1 ∨ k = 2 ∨ k = 4 ∨ k = 7)
        ∧ ¬ (0x0900 ≤ f.bufOffset.toNat ∧ f.bufOffset.toNat + f.bufLength.toNat ≤ 0x8000) then some .badBuffer
      else if k = 7 ∧ f.bufLength.toNat < 64 then some .badBuffer
      else if k = 4 ∧ ¬ (f.key ≤ f.keyHi ∧ 1 ≤ f.step.toNat ∧ 1 ≤ f.patLength.toNat ∧ f.patLength.toNat ≤ 16
        ∧ 1 ≤ f.mode.toNat ∧ f.mode.toNat ≤ 5) then some .badRange
      else if (k ≠ 6 ∧ k ≠ 7) ∧ m = false then some .notMounted
      else none := by
  have hknown : ¬ (k < 1 ∨ 7 < k) := by omega
  have hkeys : (validLong f.key && validLong f.keyHi) = false
      ↔ ¬ ((f.key ≠ 0 ∧ f.key ≠ 0xFFFFFFFF) ∧ f.keyHi ≠ 0 ∧ f.keyHi ≠ 0xFFFFFFFF) := by
    rw [← validLong_iff, ← validLong_iff, ← Bool.and_eq_true, Bool.not_eq_true]
  have hkind : ∀ b : Byte, (f.kind != b) = true ↔ k ≠ b.toNat := fun b => by
    rw [bne_iff_ne, ne_eq, ← BitVec.toNat_inj, hk]
  have hneeds : f.needsMount = true ↔ k ≠ 6 ∧ k ≠ 7 := by
    rw [OrderFields.needsMount, Bool.and_eq_true, hkind, hkind]
    rfl
  simp only [dispatchCheck, hk, if_neg hknown, validLong_eq_false_iff, hkeys, OrderFields.bufferOk_eq_false_iff,
    OrderFields.rangeOk_eq_false_iff, hneeds]
  rfl

theorem unknownKind_iff {k : Byte} : unknownKind k = true ↔ k = 0 ∨ 7 < k.toNat := by
  rw [← BitVec.toNat_inj]
  simp only [unknownKind, Bool.not_eq_true', Bool.and_eq_false_iff, decide_eq_false_iff_not]
  have : (0 : Byte).toNat = 0 := rfl
  omega

/-- Settles O43, one kind at a time. -/
theorem dispatchChecks : Obligations.DispatchChecks := by
  intro m f valid inside
  have hat : ∀ {b : Byte}, f.kind = b → f.kind.toNat = b.toNat := fun h => by rw [h]
  refine ⟨fun h => dispatchCheck_unknownKind m (unknownKind_iff.2 h), fun h => ?_, fun h => ?_, fun h => ?_, fun h => ?_,
    fun h => ?_, fun h => ?_, fun h => ?_⟩
  all_goals
    rw [dispatchCheck_of_kind m (hat h) (by decide) (by decide)]
    simp [valid, inside]

end Sys2Proof.Machine
end

section
/-! SUPPORT. What a dispatch command does: nothing, a refusal, or the head order handed to its unit (R93, R103 to R107). -/

namespace Sys2Proof.Machine

/-! ## The order fields of a slot (R93) -/

theorem Mem.readBytes_eq_map (m : Mem) (a : Nat) :
    ∀ n, Mem.readBytes m a n = (List.range n).map fun i => Mem.read m (memAddr (a + i)) := by
  intro n
  induction n generalizing a with
  | zero => rfl
  | succ n ih =>
    rw [Mem.readBytes, ih, List.range_succ_eq_map, List.map_cons, List.map_map]
    refine congrArg₂ _ rfl (List.map_congr_left fun i _ => ?_)
    simp only [Function.comp_apply, Nat.succ_eq_add_one, Nat.add_assoc, Nat.add_comm 1]

/-- The bytes of a slot that a dispatch reads. -/
theorem readBytes_slot (s : State) (n : SlotNo) :
    Mem.readBytes s.part.mem (slotBase n) 52 = (List.range 52).map (s.slotByte n) := by
  rw [Mem.readBytes_eq_map]
  refine List.map_congr_left fun i hi => ?_
  have hroom := slotBase_add_le n
  have hinside : slotBase n + i < memSize := by
    rw [List.mem_range] at hi
    omega
  rw [memAddr, Nat.mod_eq_of_lt hinside]
  rfl

theorem take_drop_map_range {α : Type} (g : Nat → α) {size offset k : Nat} (h : offset + k ≤ size) :
    (((List.range size).map g).drop offset).take k = (List.range k).map fun i => g (offset + i) := by
  refine List.ext_getElem (by simp; omega) fun i h1 h2 => ?_
  simp only [List.getElem_take, List.getElem_drop, List.getElem_map, List.getElem_range]

theorem byteAt_map_range (g : Nat → Byte) {size offset : Nat} (h : offset < size) :
    byteAt ((List.range size).map g) offset = g offset := by
  rw [byteAt, List.getD_eq_getElem _ _ (by simpa using h), List.getElem_map, List.getElem_range]

theorem leNat_lt : ∀ bytes : List Byte, leNat bytes < 256 ^ bytes.length
  | [] => by decide
  | b :: rest => by
    have hb := b.isLt
    have hrest := leNat_lt rest
    simp only [leNat, List.length_cons, Nat.pow_succ]
    omega

/-- A field of a slot, as a number, from its bytes. -/
theorem leField_slot (s : State) (n : SlotNo) {offset k : Nat} (h : offset + k ≤ 52) :
    leField ((List.range 52).map (s.slotByte n)) offset k
      = leNat ((List.range k).map fun i => s.slotByte n (offset + i)) := by
  rw [leField, take_drop_map_range _ h]

theorem toNat_ofNat_leNat {w : Nat} {bytes : List Byte} (h : 256 ^ bytes.length = 2 ^ w) :
    (BitVec.ofNat w (leNat bytes)).toNat = leNat bytes := by
  rw [BitVec.toNat_ofNat, Nat.mod_eq_of_lt (h ▸ leNat_lt bytes)]

/-- Where in the slot each order field is read (R93). -/
theorem readFields_slot (s : State) (n : SlotNo) :
    let f := s.part.readFields n
    let field := fun (offset k : Nat) => leNat ((List.range k).map fun i => s.slotByte n (offset + i))
    f.kind = s.slotByte n 1 ∧ f.options = s.slotByte n 2 ∧ f.step = s.slotByte n 6 ∧ f.mode = s.slotByte n 7
      ∧ f.key.toNat = field 8 4 ∧ f.keyHi.toNat = field 12 4 ∧ f.bufOffset.toNat = field 16 2 ∧ f.bufLength.toNat = field 18 2
      ∧ f.cmpOffset.toNat = field 32 2 ∧ f.patLength = s.slotByte n 34
      ∧ f.pattern = (List.range 16).map fun i => s.slotByte n (36 + i) := by
  intro f field
  have hlong : ∀ offset, offset + 4 ≤ 52 → (BitVec.ofNat 32 (leField ((List.range 52).map (s.slotByte n)) offset 4)).toNat
      = field offset 4 := fun offset h => by
    rw [leField_slot s n h, toNat_ofNat_leNat (by rw [List.length_map, List.length_range]; rfl)]
  have hword : ∀ offset, offset + 2 ≤ 52 → (BitVec.ofNat 16 (leField ((List.range 52).map (s.slotByte n)) offset 2)).toNat
      = field offset 2 := fun offset h => by
    rw [leField_slot s n h, toNat_ofNat_leNat (by rw [List.length_map, List.length_range]; rfl)]
  have hbyte : ∀ offset, offset < 52 → byteAt ((List.range 52).map (s.slotByte n)) offset = s.slotByte n offset :=
    fun offset h => byteAt_map_range _ h
  simp only [f, Part.readFields, readBytes_slot]
  exact ⟨hbyte _ (by decide), hbyte _ (by decide), hbyte _ (by decide), hbyte _ (by decide), hlong _ (by decide),
    hlong _ (by decide), hword _ (by decide), hword _ (by decide), hword _ (by decide), hbyte _ (by decide),
    take_drop_map_range _ (by decide)⟩

/-! ## The head of the post queue (R103) -/

theorem Part.headOrder_eq_some_iff (p : Part) (n : SlotNo) (f : OrderFields) :
    p.headOrder = some (n, f) ↔
      p.power.state = .active ∧ p.orders.intake = .ended
        ∧ (p.mount.state = .mounted ∨ p.mount.state = .degraded ∨ p.mount.state = .failed) ∧ p.format = none
        ∧ p.orders.postQueue.head? = some n ∧ f = p.readFields n := by
  have hcond : (p.active && p.orders.intake == .ended && (p.mounted || p.mount.state == .failed) && p.format.isNone) = true
      ↔ p.power.state = .active ∧ p.orders.intake = .ended
        ∧ (p.mount.state = .mounted ∨ p.mount.state = .degraded ∨ p.mount.state = .failed) ∧ p.format = none := by
    simp only [Bool.and_eq_true, Bool.or_eq_true, Part.active, Part.mounted, beq_iff_eq, Option.isNone_iff_eq_none, and_assoc,
      or_assoc]
  unfold Part.headOrder
  split
  · next h =>
    obtain ⟨hactive, hintake, hmount, hformat⟩ := hcond.1 h
    cases p.orders.postQueue with
    | nil => simp
    | cons m rest =>
      simp only [Option.some.injEq, Prod.mk.injEq, hactive, hintake, hmount, hformat, true_and, List.head?_cons]
      constructor
      · rintro ⟨rfl, rfl⟩
        exact ⟨rfl, rfl⟩
      · rintro ⟨rfl, rfl⟩
        exact ⟨rfl, rfl⟩
  · next h =>
    constructor
    · intro hnone
      exact absurd hnone (by simp)
    · rintro ⟨h1, h2, h3, h4, -⟩
      exact absurd (hcond.2 ⟨h1, h2, h3, h4⟩) h

/-! ## Started orders (R97, R105) -/

theorem Part.startOrder_eq (p : Part) (n : SlotNo) : p.startOrder n = { p with
    orders.postQueue := p.orders.postQueue.tail, orders.slots := p.orders.slots.set n.val ⟨true, .running⟩ n.isLt,
    mem := Mem.writeBytes p.mem (slotBase n) [2] } := rfl

/-- The phase byte of a started order reads 2, and every other byte is as it was. -/
theorem startOrder_bytes (s : State) (n : SlotNo) (hwf : Mem.wf s.part.mem = true) :
    (s.withPart (s.part.startOrder n)).slotByte n 0 = 2
      ∧ ∀ a, a ≠ slotBase n → (s.withPart (s.part.startOrder n)).byte a = s.byte a := by
  have hroom := slotBase_add_le n
  have hread : ∀ a, (s.withPart (s.part.startOrder n)).byte a
      = if slotBase n ≤ a ∧ a < slotBase n + 1 then [(2 : Byte)].getD (a - slotBase n) 0 else s.byte a :=
    Mem.read_writeBytes hwf (by simp only [List.length_singleton]; omega)
  constructor
  · rw [State.slotByte, hread, if_pos (by omega), Nat.add_zero, Nat.sub_self]
    rfl
  · intro a ha
    rw [hread, if_neg (by omega)]

/-! ## Dispatch commands -/

theorem Part.dispatch_none {p : Part} {kinds : Byte → Bool} {free : Part → Bool} {take : SlotNo → OrderFields → Part → Part}
    (h : p.headOrder = none) : p.dispatch kinds free take = p := by
  rw [Part.dispatch, h]

section
variable {s : State} {n : SlotNo} {f : OrderFields} {kinds : Byte → Bool} {free : Part → Bool}
  {take : SlotNo → OrderFields → Part → Part}

/-- A dispatch command without a head order. -/
theorem run_dispatch_none (hlive : s.part.live = true) (h : s.part.headOrder = none) :
    run (Part.act (Part.dispatch kinds free take)) s = .next (s.withPart s.part.refreshErase) := by
  rw [run_act_live hlive, Part.dispatch_none h]

/-- A dispatch command of another kind, or with its unit not free. -/
theorem run_dispatch_kept (hlive : s.part.live = true) (h : s.part.headOrder = some (n, f))
    (hno : kinds f.kind = false ∨ free s.part = false) :
    run (Part.act (Part.dispatch kinds free take)) s = .next (s.withPart s.part.refreshErase) := by
  have hcond : ¬ (kinds f.kind && free s.part) = true := by
    rcases hno with h | h <;> simp [h]
  rw [run_act_live hlive, Part.dispatch, h]
  simp only [if_neg hcond]

/-- A dispatch command whose order fails a check. -/
theorem run_dispatch_refused {why : Reason} (hlive : s.part.live = true) (h : s.part.headOrder = some (n, f))
    (hcheck : dispatchCheck s.part.mounted f = some why) (hkind : kinds f.kind = true) (hfree : free s.part = true) :
    run (Part.act (Part.dispatch kinds free take)) s = .next (s.withPart
      (((s.part.startOrder n).complete n ⟨.refused, why, false, false, 0, 0, 0, 0, 0⟩).refreshErase)) := by
  rw [run_act_live hlive, Part.dispatch, h]
  simp only [hkind, hfree, Bool.and_self, if_true, hcheck]
  rfl

/-- A dispatch command that hands the order to its unit. -/
theorem run_dispatch_taken (hlive : s.part.live = true) (h : s.part.headOrder = some (n, f))
    (hcheck : dispatchCheck s.part.mounted f = none) (hkind : kinds f.kind = true) (hfree : free s.part = true) :
    run (Part.act (Part.dispatch kinds free take)) s
      = .next (s.withPart (take n f (s.part.startOrder n)).refreshErase) := by
  rw [run_act_live hlive, Part.dispatch, h]
  simp only [hkind, hfree, Bool.and_self, if_true, hcheck]

end

/-! ## The dispatch rows, as one dispatcher -/

theorem exec_put (s : State) : exec .put s = run (Part.act (Part.dispatch (· == 1) Part.recordFree Part.takePut)) s := rfl

theorem exec_get (s : State) : exec .get s = run (Part.act (Part.dispatch (· == 2) Part.recordFree Part.takeGet)) s := rfl

theorem exec_drop (s : State) : exec .drop s = run (Part.act (Part.dispatch (· == 3) Part.recordFree Part.takeDrop)) s := rfl

theorem exec_scan (s : State) : exec .scan s = run (Part.act (Part.dispatch (· == 4) Part.scanFree Part.takeScan)) s := rfl

theorem exec_reclaim (s : State) :
    exec .reclaim s = run (Part.act (Part.dispatch (· == 5) Part.reclaimFree Part.takeReclaim)) s := rfl

theorem exec_format (s : State) :
    exec .format s = run (Part.act (Part.dispatch (· == 6) Part.formatFree Part.takeFormat)) s := rfl

theorem exec_survey (s : State) :
    exec .survey s = run (Part.act (Part.dispatch (· == 7) Part.recordFree Part.takeSurvey)) s := rfl

theorem Part.recordFree_iff (p : Part) : p.recordFree = true ↔ p.record = none := Option.isNone_iff_eq_none

theorem Part.scanFree_iff (p : Part) : p.scanFree = true ↔ p.scan = none := Option.isNone_iff_eq_none

theorem Part.reclaimFree_iff (p : Part) : p.reclaimFree = true ↔ p.reclaim.attached = none := Option.isNone_iff_eq_none

theorem Part.formatFree_iff (p : Part) :
    p.formatFree = true ↔ p.record = none ∧ p.scan = none ∧ p.reclaim.attached = none := by
  rw [Part.formatFree, Bool.and_eq_true, Bool.and_eq_true, Part.recordFree_iff, Part.scanFree_iff, Part.reclaimFree_iff, and_assoc]

theorem unknownKind_eq_false {k : Byte} (h1 : 1 ≤ k.toNat) (h7 : k.toNat ≤ 7) : unknownKind k = false := by
  simp only [unknownKind, h1, h7, decide_true, Bool.and_self, Bool.not_true]

/-- Without a head order every dispatch row leaves all but the erase requests. -/
theorem dispatchRows_none {s : State} (hlive : s.part.live = true) (h : s.part.headOrder = none) :
    ∀ c ∈ dispatchRows, exec c s = .next (s.withPart s.part.refreshErase) := by
  simp only [dispatchRows, List.forall_mem_cons, List.not_mem_nil, false_implies, implies_true, and_true]
  exact ⟨run_dispatch_none hlive h, run_dispatch_none hlive h, run_dispatch_none hlive h, run_dispatch_none hlive h,
    run_dispatch_none hlive h, run_dispatch_none hlive h, run_dispatch_none hlive h, run_dispatch_none hlive h⟩

/-- With a head order of another kind, or with the unit not free, a dispatch row leaves all but the erase requests. -/
theorem dispatchRows_kept {s : State} {n : SlotNo} {f : OrderFields} (hlive : s.part.live = true)
    (h : s.part.headOrder = some (n, f)) :
    let kept : Host.Outcome State Fault Refusal := .next (s.withPart s.part.refreshErase)
    (s.part.record ≠ none → ∀ c ∈ [Instr.put, .get, .drop, .survey], exec c s = kept)
      ∧ (s.part.scan ≠ none → exec .scan s = kept) ∧ (s.part.reclaim.attached ≠ none → exec .reclaim s = kept)
      ∧ ((s.part.record ≠ none ∨ s.part.scan ≠ none ∨ s.part.reclaim.attached ≠ none) → exec .format s = kept)
      ∧ (f.kind ≠ 1 → exec .put s = kept) ∧ (f.kind ≠ 2 → exec .get s = kept) ∧ (f.kind ≠ 3 → exec .drop s = kept)
      ∧ (f.kind ≠ 4 → exec .scan s = kept) ∧ (f.kind ≠ 5 → exec .reclaim s = kept) ∧ (f.kind ≠ 6 → exec .format s = kept)
      ∧ (f.kind ≠ 7 → exec .survey s = kept) ∧ (1 ≤ f.kind.toNat → f.kind.toNat ≤ 7 → exec .badKind s = kept) := by
  intro kept
  have hbusy : ∀ {b : Bool} {P : Prop}, (b = true ↔ P) → ¬ P → b = false := fun hiff hP =>
    Bool.eq_false_iff.2 fun hb => hP (hiff.1 hb)
  have hother : ∀ {b : Byte}, f.kind ≠ b → (f.kind == b) = false := fun hne => beq_eq_false_iff_ne.2 hne
  refine ⟨fun hr => ?_, fun hs => run_dispatch_kept hlive h (.inr (hbusy (Part.scanFree_iff _) hs)),
    fun ha => run_dispatch_kept hlive h (.inr (hbusy (Part.reclaimFree_iff _) ha)),
    fun hany => run_dispatch_kept hlive h (.inr (hbusy (Part.formatFree_iff _) (by tauto))),
    fun hk => run_dispatch_kept hlive h (.inl (hother hk)), fun hk => run_dispatch_kept hlive h (.inl (hother hk)),
    fun hk => run_dispatch_kept hlive h (.inl (hother hk)), fun hk => run_dispatch_kept hlive h (.inl (hother hk)),
    fun hk => run_dispatch_kept hlive h (.inl (hother hk)), fun hk => run_dispatch_kept hlive h (.inl (hother hk)),
    fun hk => run_dispatch_kept hlive h (.inl (hother hk)),
    fun h1 h7 => run_dispatch_kept hlive h (.inl (unknownKind_eq_false h1 h7))⟩
  have hrecord : s.part.recordFree = false := hbusy (Part.recordFree_iff _) hr
  simp only [List.forall_mem_cons, List.not_mem_nil, false_implies, implies_true, and_true]
  exact ⟨run_dispatch_kept hlive h (.inr hrecord), run_dispatch_kept hlive h (.inr hrecord),
    run_dispatch_kept hlive h (.inr hrecord), run_dispatch_kept hlive h (.inr hrecord)⟩

/-- Settles O45, from the four ends of a dispatch command. -/
theorem dispatchRefuses : Obligations.DispatchRefuses := by
  refine ⟨?_, Part.headOrder_eq_some_iff, Part.startOrder_eq, fun s n =>
    ⟨Part.slot_startOrder_same _ n, fun m hm => Part.slot_startOrder_other _ hm, startOrder_bytes s n⟩, readFields_slot,
    fun s hlive => ⟨dispatchRows_none hlive, fun n f h => dispatchRows_kept hlive h⟩⟩
  intro s n f why hlive h hcheck refused
  obtain ⟨hactive, hintake, hmount, hformat, hqueue, -⟩ := (Part.headOrder_eq_some_iff _ n f).1 h
  have hkind : ∀ {b : Byte}, f.kind = b → (f.kind == b) = true := fun hk => beq_iff_eq.2 hk
  refine ⟨fun hk => ?_, fun hr => ?_, fun hs hk => run_dispatch_refused hlive h hcheck (hkind hk) ((Part.scanFree_iff _).2 hs),
    fun ha hk => run_dispatch_refused hlive h hcheck (hkind hk) ((Part.reclaimFree_iff _).2 ha), hactive, hintake, hformat, ?_,
    hqueue⟩
  · have hunknown := unknownKind_iff.2 hk
    have hwhy : why = .badKind := Option.some.inj (hcheck.symm.trans (dispatchCheck_unknownKind _ hunknown))
    exact ⟨hwhy, run_dispatch_refused hlive h hcheck hunknown rfl⟩
  · have hfree := (Part.recordFree_iff _).2 hr
    exact ⟨fun hk => run_dispatch_refused hlive h hcheck (hkind hk) hfree,
      fun hk => run_dispatch_refused hlive h hcheck (hkind hk) hfree,
      fun hk => run_dispatch_refused hlive h hcheck (hkind hk) hfree,
      fun hk => run_dispatch_refused hlive h hcheck (hkind hk) hfree⟩
  · rw [Part.mounted_iff, or_assoc]
    exact hmount

end Sys2Proof.Machine
end

section
/-! SUPPORT. The record unit's orders as a dispatch hands them over: PUT, DROP, GET (R116 to R121). -/

namespace Sys2Proof.Machine

/-! ## EXPECT (R116, R117) -/

theorem isLive_iff (e : Option DirEntry) : isLive e = true ↔ ∃ x, e = some x ∧ x.gone = false := by
  cases e with
  | none => simp [isLive]
  | some x => simp [isLive]

theorem putExpectOk_iff (f : OrderFields) (e : Option DirEntry) : putExpectOk f e = true ↔
    f.options.getLsbD 0 = false ∨ (f.keyHi = 0 ∧ ¬ ∃ x, e = some x ∧ x.gone = false)
      ∨ (f.keyHi ≠ 0 ∧ ∃ x, e = some x ∧ x.gone = false ∧ x.sequence = f.keyHi) := by
  have hboth : (isLive e && sequenceOf e == f.keyHi) = true ↔ ∃ x, e = some x ∧ x.gone = false ∧ x.sequence = f.keyHi := by
    cases e with
    | none => simp [isLive]
    | some x => simp [isLive, sequenceOf]
  rw [putExpectOk, Bool.or_eq_true, Bool.not_eq_true', OrderFields.expects]
  by_cases hzero : f.keyHi = 0
  · simp only [hzero, if_true, Bool.not_eq_true', ← isLive_iff, Bool.not_eq_true, true_and, ne_eq, not_true_eq_false, false_and,
      or_false]
  · simp only [hzero, if_false, hboth, false_and, ne_eq, not_false_eq_true, true_and, false_or]

theorem dropExpectOk_iff (f : OrderFields) (x : DirEntry) : dropExpectOk f x = true ↔
    f.options.getLsbD 0 = false ∨ (f.keyHi ≠ 0 ∧ x.sequence = f.keyHi) := by
  simp only [dropExpectOk, OrderFields.expects, Bool.or_eq_true, Bool.not_eq_true', Bool.and_eq_true, bne_iff_ne, beq_iff_eq]

/-! ## PUT (R116) -/

section
variable {p : Part} (n : SlotNo) {f : OrderFields}

theorem Part.takePut_mismatch (h : ¬ putExpectOk f (dirLookup p.dir f.key) = true) :
    p.takePut n f = p.complete n { faultResult .mismatch with sequence := ((dirLookup p.dir f.key).map (·.sequence)).getD 0 } := by
  rw [Bool.not_eq_true] at h
  simp only [Part.takePut, h, Bool.not_false, if_true]
  rfl

theorem Part.takePut_full (h : putExpectOk f (dirLookup p.dir f.key) = true) (hnone : dirLookup p.dir f.key = none)
    (hfull : 4096 ≤ p.dir.length) : p.takePut n f = p.complete n (faultResult .directoryFull) := by
  have hcapacity : decide (dirCapacity ≤ p.dir.length) = true := decide_eq_true hfull
  simp only [Part.takePut, h, Bool.not_true, Bool.false_eq_true, if_false]
  simp only [hnone, Option.isNone_none, hcapacity, Bool.and_self, if_true]

theorem Part.takePut_requests (h : putExpectOk f (dirLookup p.dir f.key) = true)
    (hroom : dirLookup p.dir f.key ≠ none ∨ p.dir.length < 4096) :
    p.takePut n f = { p with record := some ⟨n, f, .waiting⟩, head.orderReq := some (putRequest f) } := by
  have hcond : ¬ ((dirLookup p.dir f.key).isNone && decide (dirCapacity ≤ p.dir.length)) = true := by
    rw [Bool.and_eq_true, Option.isNone_iff_eq_none, decide_eq_true_eq, dirCapacity]
    rintro ⟨hnone, hfull⟩
    exact hroom.elim (· hnone) fun hlt => absurd hfull (by omega)
  simp only [Part.takePut, h, Bool.not_true, Bool.false_eq_true, if_false]
  rw [if_neg hcond]
  rfl

/-! ## DROP (R117) -/

theorem Part.takeDrop_absent (h : dirLookup p.dir f.key = none) : p.takeDrop n f = p.complete n (faultResult .notFound) := by
  simp only [Part.takeDrop, h]

variable {x : DirEntry} (h : dirLookup p.dir f.key = some x)
include h

theorem Part.takeDrop_gone (hgone : x.gone = true) :
    p.takeDrop n f = p.complete n { faultResult .notFound with sequence := x.sequence } := by
  simp only [Part.takeDrop, h, hgone, if_true]

theorem Part.takeDrop_mismatch (hlive : x.gone = false) (hmet : ¬ dropExpectOk f x = true) :
    p.takeDrop n f = p.complete n { faultResult .mismatch with sequence := x.sequence } := by
  rw [Bool.not_eq_true] at hmet
  simp only [Part.takeDrop, h, hlive, hmet, Bool.false_eq_true, if_false, Bool.not_false, if_true]

theorem Part.takeDrop_requests (hlive : x.gone = false) (hmet : dropExpectOk f x = true) :
    p.takeDrop n f = { p with record := some ⟨n, f, .waiting⟩, head.orderReq := some (dropRequest f) } := by
  simp only [Part.takeDrop, h, hlive, hmet, Bool.false_eq_true, if_false, Bool.not_true]
  rfl

/-! ## GET (R119 to R121) -/

omit h in
theorem Part.takeGet_absent (h : dirLookup p.dir f.key = none ∨ ∃ x, dirLookup p.dir f.key = some x ∧ x.gone = true) :
    p.takeGet n f = p.complete n (faultResult .notFound) := by
  rcases h with h | ⟨x, h, hgone⟩
  · simp only [Part.takeGet, h]
  · simp only [Part.takeGet, h, hgone, if_true]

theorem Part.takeGet_short (hlive : x.gone = false) (hshort : f.bufLength.toNat < x.length) :
    p.takeGet n f = p.complete n
      { faultResult .shortBuffer with sequence := x.sequence, length := BitVec.ofNat 16 x.length } := by
  simp only [Part.takeGet, h, hlive, hshort, Bool.false_eq_true, if_false, if_true]
  rfl

/-- A GET whose payload fits: its record is held with one on its segment's readers count, and its first line is read. -/
theorem Part.takeGet_reads (hlive : x.gone = false) (hfits : x.length ≤ f.bufLength.toNat) :
    p.takeGet n f = Part.readGet ⟨x, 0, 0, PayloadRun.start, x.loc.addr⟩
      ({ p with record := some ⟨n, f, .reading ⟨x, 0, 0, PayloadRun.start, x.loc.addr⟩⟩ }.takeReader x.loc.addr) := by
  simp only [Part.takeGet, h, hlive, Nat.not_lt.2 hfits, Bool.false_eq_true, if_false]
  rfl

end

section
variable (p : Part) (n : SlotNo) (f : OrderFields) (g : GetRead)

theorem Part.takeReader_present (a : SegAddr) (l : Lane) : (p.takeReader a).present l = p.present l := rfl

/-- The first line of a GET's record is asked for on its lane. -/
theorem Part.readGet_first (h : p.present g.entry.loc.addr.lane = true) (hnext : g.next = 0) :
    Part.readGet g ({ p with record := some ⟨n, f, .reading g⟩ }.takeReader g.entry.loc.addr)
      = Part.place g.entry.loc.addr.lane .record ⟨.readLine g.entry.loc.addr.seg g.entry.loc.line, false⟩
          ({ p with record := some ⟨n, f, .reading g⟩ }.takeReader g.entry.loc.addr) := by
  refine (if_pos (by exact h)).trans ?_
  rw [hnext]
  rfl

/-- A GET whose lane is not PRESENT ends at once, its readers count released. -/
theorem Part.readGet_offline (h : p.present g.entry.loc.addr.lane = false) (hrecord : p.record = none)
    (hholds : g.holds = g.entry.loc.addr) :
    Part.readGet g ({ p with record := some ⟨n, f, .reading g⟩ }.takeReader g.entry.loc.addr)
      = Part.complete n { faultResult .laneOffline with
            sequence := g.entry.sequence, length := BitVec.ofNat 16 g.entry.length }
          ((p.takeReader g.entry.loc.addr).releaseReader g.entry.loc.addr) := by
  have hfree : ∀ q : Part, q.record = none → { q with record := none } = q := fun q hq => by rw [← hq]
  refine (if_neg (Bool.eq_false_iff.1 (by exact h))).trans ?_
  rw [Part.endGet, hholds]
  exact congrArg (Part.complete n _) (hfree ((p.takeReader g.entry.loc.addr).releaseReader g.entry.loc.addr) hrecord)

end

/-! ## The obligations -/

/-- Settles O46, from the three ends of a PUT at its dispatch. -/
theorem putRequests : Obligations.PutRequests := by
  intro s n f hlive h hcheck hkind hrecord e live met
  have hmet : met ↔ putExpectOk f (dirLookup s.part.dir f.key) = true := (putExpectOk_iff _ _).symm
  have htaken := (exec_put s).trans (run_dispatch_taken hlive h hcheck
    (beq_iff_eq.2 hkind) ((Part.recordFree_iff _).2 hrecord))
  rw [hmet]
  refine ⟨fun hno => htaken.trans ?_, fun hyes hnone hfull => htaken.trans ?_, fun hyes hroom => htaken.trans ?_⟩
  · rw [Part.takePut_mismatch n (p := s.part.startOrder n) hno]
    rfl
  · rw [Part.takePut_full n (p := s.part.startOrder n) hyes hnone hfull]
  · rw [Part.takePut_requests n (p := s.part.startOrder n) hyes hroom]
    rfl

/-- Settles O47, from the four ends of a DROP at its dispatch. -/
theorem dropRequests : Obligations.DropRequests := by
  intro s n f hlive h hcheck hkind hrecord met
  have htaken := (exec_drop s).trans (run_dispatch_taken hlive h hcheck
    (beq_iff_eq.2 hkind) ((Part.recordFree_iff _).2 hrecord))
  refine ⟨fun hnone => htaken.trans ?_, fun x hx => ⟨fun hgone => htaken.trans ?_, fun hgone hno => htaken.trans ?_,
    fun hgone hyes => htaken.trans ?_⟩⟩
  · rw [Part.takeDrop_absent n (p := s.part.startOrder n) hnone]
  · rw [Part.takeDrop_gone n (p := s.part.startOrder n) hx hgone]
  · rw [Part.takeDrop_mismatch n (p := s.part.startOrder n) hx hgone (mt (dropExpectOk_iff f x).1 hno)]
  · rw [Part.takeDrop_requests n (p := s.part.startOrder n) hx hgone ((dropExpectOk_iff f x).2 hyes)]
    rfl

/-- Settles O48, from the ends of a GET at its dispatch. -/
theorem getReads : Obligations.GetReads := by
  intro s n f hlive h hcheck hkind hrecord
  have htaken := (exec_get s).trans (run_dispatch_taken hlive h hcheck
    (beq_iff_eq.2 hkind) ((Part.recordFree_iff _).2 hrecord))
  refine ⟨fun hnone => htaken.trans ?_, fun x hx hgone => ⟨fun hshort => htaken.trans ?_, fun hfits hpresent => htaken.trans ?_,
    fun hfits hoff => htaken.trans ?_⟩⟩
  · rw [Part.takeGet_absent n (p := s.part.startOrder n) hnone]
  · rw [Part.takeGet_short n (p := s.part.startOrder n) hx hgone hshort]
  · rw [Part.takeGet_reads n (p := s.part.startOrder n) hx hgone hfits]
    exact congrArg (fun q => Host.Outcome.next (s.withPart (Part.refreshErase q)))
      (Part.readGet_first (s.part.startOrder n) n f ⟨x, 0, 0, PayloadRun.start, x.loc.addr⟩ hpresent rfl)
  · rw [Part.takeGet_reads n (p := s.part.startOrder n) hx hgone hfits]
    exact congrArg (fun q => Host.Outcome.next (s.withPart (Part.refreshErase q)))
      (Part.readGet_offline (s.part.startOrder n) n f ⟨x, 0, 0, PayloadRun.start, x.loc.addr⟩ hoff hrecord rfl)

end Sys2Proof.Machine
end

section
/-! SUPPORT. The scan unit at an entry boundary (R137 to R143, R147). -/

namespace Sys2Proof.Machine

/-! ## What a boundary brings (R138, R139) -/

section
variable {p : Part} {o : ScanOrder} (ho : p.scan = some o) (hh : o.inHand = none)
include ho hh

theorem Part.scanBoundary_cut (hcut : o.cutPending = true) :
    p.scanBoundary = p.endScan o ⟨.partly, .cut, false, false, 0, 0, 0, 0, 0⟩ o.cursor := by
  simp only [Part.scanBoundary, ho, hh, hcut, Option.isSome_none, Bool.false_eq_true, if_false, if_true]
  rfl

variable (hcut : o.cutPending = false)
include hcut

theorem Part.scanBoundary_paused (hpause : p.power.state ≠ .active) : p.scanBoundary = p := by
  have hactive := p.active_eq_false_iff.2 hpause
  simp only [Part.scanBoundary, ho, hh, hcut, hactive, Option.isSome_none, Bool.false_eq_true, if_false, Bool.not_false, if_true]

variable (hactive : p.power.state = .active)
include hactive

theorem Part.scanBoundary_over (hnone : dirNext p.dir o.cursor o.fields.keyHi = none) :
    p.scanBoundary = p.endScan o okResult 0 := by
  have hact := p.active_iff.2 hactive
  simp only [Part.scanBoundary, ho, hh, hcut, hact, hnone, Option.isSome_none, Bool.false_eq_true, if_false, Bool.not_true]

variable {e : DirEntry} (hnext : dirNext p.dir o.cursor o.fields.keyHi = some e)
include hnext

theorem Part.scanBoundary_gone (hgone : e.gone = true) :
    p.scanBoundary = p.setScan (o.passKey e.key) := by
  have hact := p.active_iff.2 hactive
  simp only [Part.scanBoundary, ho, hh, hcut, hact, hnext, hgone, Option.isSome_none, Bool.false_eq_true, if_false, Bool.not_true,
    if_true]

variable (hgone : e.gone = false)
include hgone

theorem Part.scanBoundary_skips (hskip : 0 < o.skip) :
    p.scanBoundary = { p with scan := some { o with skip := o.skip - 1, cursor := e.key + 1, inHand := none } } := by
  have hact := p.active_iff.2 hactive
  simp only [Part.scanBoundary, ho, hh, hcut, hact, hnext, hgone, Option.isSome_none, Bool.false_eq_true, if_false, Bool.not_true,
    Nat.pos_iff_ne_zero.1 hskip]
  rfl

theorem Part.scanBoundary_selects (hskip : o.skip = 0) : p.scanBoundary = p.scanSelect o e := by
  have hact := p.active_iff.2 hactive
  simp only [Part.scanBoundary, ho, hh, hcut, hact, hnext, hgone, Option.isSome_none, Bool.false_eq_true, if_false, Bool.not_true,
    hskip, if_true]

end

/-! ## A selected entry (R139, R140, R143) -/

section
variable (p : Part) (o : ScanOrder) (e : DirEntry)

theorem Part.scanSelect_any (hmode : o.fields.mode = 5) :
    p.scanSelect o e = p.scanHit { o with skip := o.fields.step.toNat - 1 } e.key e.sequence := if_pos hmode

theorem Part.scanSelect_hit (hmode : o.fields.mode = 5) (hroom : o.hits < o.fields.bufLength.toNat / 8) :
    p.scanSelect o e = { p.store (o.fields.bufOffset.toNat + 8 * o.hits) (leBytes 4 e.key.toNat ++ leBytes 4 e.sequence.toNat) with
      scan := some { o with
        skip := o.fields.step.toNat - 1, hits := o.hits + 1, examined := min 65535 (o.examined + 1), cursor := e.key + 1,
        inHand := none } } :=
  (p.scanSelect_any o e hmode).trans (if_pos hroom)

theorem Part.scanSelect_full (hmode : o.fields.mode = 5) (hfull : o.fields.bufLength.toNat / 8 ≤ o.hits) :
    p.scanSelect o e = p.endScan o ⟨.partly, .areaFull, false, false, 0, 0, 0, 0, 0⟩ e.key :=
  (p.scanSelect_any o e hmode).trans (if_neg (Nat.not_lt.2 hfull))

theorem Part.scanSelect_reads (hmode : o.fields.mode ≠ 5) (hpresent : p.present e.loc.addr.lane = true) :
    p.scanSelect o e = Part.place e.loc.addr.lane .scan ⟨.readLine e.loc.addr.seg e.loc.line, false⟩
      { p.takeReader e.loc.addr with
        scan := some { o with
          skip := o.fields.step.toNat - 1, inHand := some ⟨e, 0, false, 0, PayloadRun.start, .eq, e.loc.addr⟩ } } :=
  (if_neg hmode).trans (if_pos hpresent)

theorem Part.scanSelect_offline (hmode : o.fields.mode ≠ 5) (hoff : p.present e.loc.addr.lane = false) :
    p.scanSelect o e = { (p.takeReader e.loc.addr).releaseReader e.loc.addr with
      scan := some { o with
        skip := o.fields.step.toNat - 1, damaged := min 255 (o.damaged + 1), examined := min 65535 (o.examined + 1),
        cursor := e.key + 1, inHand := none } } :=
  (if_neg hmode).trans (if_neg (Bool.eq_false_iff.1 (by exact hoff)))

end

/-! ## The obligations -/

theorem exec_entryBoundary {s : State} (h : s.part.live = true) :
    exec .entryBoundary s = .next (s.withPart s.part.scanBoundary.refreshErase) := run_act_live (f := Part.scanBoundary) h

/-- A scan that finds no key in its window ends with every count 0. -/
theorem Part.scanBoundary_empty {p : Part} {n : SlotNo} {f : OrderFields} (hactive : p.power.state = .active) (hfree : p.scan = none)
    (hnone : ∀ e ∈ p.dir, e.key < f.key ∨ f.keyHi < e.key) :
    Part.scanBoundary { p with scan := some ⟨n, f, f.key, 0, 0, 0, 0, none, false⟩ } = p.complete n okResult := by
  have hwindow : dirNext p.dir f.key f.keyHi = none := by
    refine List.find?_eq_none.2 fun e he => ?_
    rw [Bool.and_eq_true, decide_eq_true_eq, decide_eq_true_eq]
    rintro ⟨hlo, hhi⟩
    rcases hnone e he with h | h
    · exact absurd hlo (BitVec.not_le.2 h)
    · exact absurd hhi (BitVec.not_le.2 h)
  refine (Part.scanBoundary_over (p := { p with scan := some ⟨n, f, f.key, 0, 0, 0, 0, none, false⟩ }) rfl rfl rfl hactive
    hwindow).trans ?_
  have hsame : ({ p with scan := none } : Part) = p := by rw [← hfree]
  exact congrArg (Part.complete n okResult) hsame

/-- Settles O50. -/
theorem scanBegins : Obligations.ScanBegins := by
  intro s n f hlive h hcheck hkind hscan
  have htaken := (exec_scan s).trans (run_dispatch_taken hlive h hcheck
    (beq_iff_eq.2 hkind) ((Part.scanFree_iff _).2 hscan))
  refine ⟨htaken, fun hnone => htaken.trans ?_⟩
  obtain ⟨hactive, -⟩ := (Part.headOrder_eq_some_iff _ n f).1 h
  exact congrArg (fun q => Host.Outcome.next (s.withPart (Part.refreshErase q)))
    (Part.scanBoundary_empty (p := s.part.startOrder n) hactive hscan hnone)

theorem Part.place_waits (p : Part) (l : Lane) (rq : Requester) (q : Request) (h : (p.lane l).discards rq = false) :
    p.place l rq q = p.setLane l { p.lane l with waiting := (p.lane l).waiting.set rq (some q) } := by
  rw [Part.place, LaneRec.request_waits q h]

theorem Part.place_held (p : Part) (l : Lane) (rq : Requester) (q : Request) (h : (p.lane l).discards rq = true) :
    p.place l rq q = p.setLane l { p.lane l with heldBack := some q } := by
  rw [Part.place, LaneRec.request_held q h]

/-- Settles O51, from the ends of an entry boundary. -/
theorem entryBoundaryActs : Obligations.EntryBoundaryActs := by
  refine ⟨?_, ?_, fun s hlive => exec_entryBoundary hlive, fun p o r resume => rfl, fun p a => ⟨rfl, rfl⟩, ?_⟩
  · intro s o hlive ho hh
    rw [exec_entryBoundary hlive]
    refine ⟨fun hcut => ?_, fun hcut hpause => ?_, fun hcut hactive => ⟨fun hnone => ?_, fun e hnext =>
      ⟨fun hgone => ?_, fun hgone hskip => ?_, fun hgone hskip hmode hroom => ?_, fun hgone hskip hmode hfull => ?_,
        fun hgone hskip hmode hpresent => ?_, fun hgone hskip hmode hoff => ?_⟩⟩⟩
    · rw [Part.scanBoundary_cut ho hh hcut]
    · rw [Part.scanBoundary_paused ho hh hcut hpause]
    · rw [Part.scanBoundary_over ho hh hcut hactive hnone]
    · rw [Part.scanBoundary_gone ho hh hcut hactive hnext hgone]
      rfl
    · rw [Part.scanBoundary_skips ho hh hcut hactive hnext hgone hskip]
    · rw [Part.scanBoundary_selects ho hh hcut hactive hnext hgone hskip, Part.scanSelect_hit _ o e hmode hroom]
    · rw [Part.scanBoundary_selects ho hh hcut hactive hnext hgone hskip, Part.scanSelect_full _ o e hmode hfull]
    · rw [Part.scanBoundary_selects ho hh hcut hactive hnext hgone hskip, Part.scanSelect_reads _ o e hmode hpresent]
    · rw [Part.scanBoundary_selects ho hh hcut hactive hnext hgone hskip, Part.scanSelect_offline _ o e hmode hoff]
  · rintro s hlive (hnone | ⟨o, ho, hh⟩)
    · rw [exec_entryBoundary hlive, Part.scanBoundary_none hnone]
    · rw [exec_entryBoundary hlive, Part.scanBoundary_inHand ho (Option.isSome_iff_ne_none.2 hh)]
  · intro p l rq q discards
    have hiff : (p.lane l).discards rq = true ↔ discards := by
      rw [LaneRec.discards_iff]
    refine ⟨fun hno => p.place_waits l rq q ?_, fun hyes => p.place_held l rq q (hiff.2 hyes)⟩
    rw [← Bool.not_eq_true, hiff]
    exact hno

end Sys2Proof.Machine
end

section
/-! SUPPORT. The RECLAIM order as a dispatch hands it over (R158). -/

namespace Sys2Proof.Machine

theorem Part.toReclaim_same {p : Part} {st : ReclaimState} (h : p.reclaim.state = st) : p.toReclaim st = p := by
  subst h
  exact if_neg fun hleaves => hleaves.2 hleaves.1

theorem Part.toReclaim_of_idle {p : Part} (st : ReclaimState) (h : p.reclaim.state = .idle) :
    p.toReclaim st = { p with reclaim.state := st } :=
  if_neg fun hleaves => absurd (h.symm.trans hleaves.1) (by decide)

section
variable {p : Part} (n : SlotNo) (f : OrderFields)

theorem Part.takeReclaim_stalled (h : p.reclaim.state = .stalled) : p.takeReclaim n f = p.complete n (faultResult .saturated) := by
  simp only [Part.takeReclaim, h]

theorem Part.takeReclaim_halted (h : p.reclaim.state = .halted) :
    p.takeReclaim n f = p.complete n (faultResult .reclaimHalted) := by
  simp only [Part.takeReclaim, h]

theorem Part.takeReclaim_copying {a : SegAddr} (h : p.reclaim.state = .copying) (ha : p.reclaim.tail = some a) :
    p.takeReclaim n f = p.attach n a := by
  simp only [Part.takeReclaim, h, ha]

variable (h : p.reclaim.state = .idle)
include h

theorem Part.takeReclaim_idle : p.takeReclaim n f = p.evaluateForOrder n := by
  simp only [Part.takeReclaim, h]

theorem Part.takeReclaim_nothing (hd : p.decideChain = .idle) : p.takeReclaim n f = p.complete n okResult := by
  simp only [p.takeReclaim_idle n f h, Part.evaluateForOrder, hd, Part.toReclaim_same h]

theorem Part.takeReclaim_saturated (hd : p.decideChain = .stalled) : p.takeReclaim n f
    = Part.complete n (faultResult .saturated) (Part.raise .saturated { p with reclaim.state := .stalled }) := by
  simp only [p.takeReclaim_idle n f h, Part.evaluateForOrder, hd, Part.toReclaim_of_idle _ h]

theorem Part.takeReclaim_halts (hd : p.decideChain = .halt) :
    p.takeReclaim n f = Part.complete n (faultResult .reclaimHalted) p.haltReclaim := by
  simp only [p.takeReclaim_idle n f h, Part.evaluateForOrder, hd]

theorem Part.takeReclaim_takes {a : SegAddr} (hd : p.decideChain = .take a) : p.takeReclaim n f = Part.walk
    { p.modSeg a (fun e => { e with state := .reclaiming }) with
      reclaim.state := .copying, reclaim.tail := some a, reclaim.pos := 1, reclaim.copied := 0, reclaim.inHand := none,
      reclaim.copyWait := false, reclaim.origin := .order, reclaim.attached := some ⟨n, a, none⟩ } := by
  simp only [p.takeReclaim_idle n f h, Part.evaluateForOrder, hd]
  rfl

end

/-- Settles O52, by the reclaim unit's state and the decision of an evaluation. -/
theorem reclaimOrderTaken : Obligations.ReclaimOrderTaken := by
  intro s n f hlive h hcheck hkind hattached
  have htaken := (exec_reclaim s).trans (run_dispatch_taken hlive h hcheck
    (beq_iff_eq.2 hkind) ((Part.reclaimFree_iff _).2 hattached))
  generalize hq : s.part.startOrder n = q at htaken ⊢
  have hreclaim : s.part.reclaim = q.reclaim := by rw [← hq]; rfl
  have hdecide : s.part.decideChain = q.decideChain := by rw [← hq]; rfl
  rw [hreclaim]
  refine ⟨fun hst => htaken.trans ?_, fun hst => htaken.trans ?_, fun a hst ha => htaken.trans ?_,
    fun hst hshort => htaken.trans ?_, fun hst hlong hsat => htaken.trans ?_,
    fun a e hst hlong hsat hlow hoff => htaken.trans ?_, fun a e hst hlong hsat hlow hon hopen => htaken.trans ?_,
    fun a e hst hlong hsat hlow hon hclosed => htaken.trans ?_⟩
  · rw [q.takeReclaim_stalled n f hst]
  · rw [q.takeReclaim_halted n f hst]
  · rw [q.takeReclaim_copying n f hst ha]
    rfl
  · rw [q.takeReclaim_nothing n f hst (hdecide.symm.trans (Part.decideChain_short hshort))]
  · rw [q.takeReclaim_saturated n f hst (hdecide.symm.trans (Part.decideChain_saturated hlong hsat))]
  · rw [q.takeReclaim_halts n f hst (by rw [← hdecide, Part.decideChain_lowest hlong hsat hlow, if_pos hoff])]
  · rw [q.takeReclaim_nothing n f hst (by rw [← hdecide, Part.decideChain_lowest hlong hsat hlow, if_neg (by simp [hon]), if_neg hopen])]
  · rw [q.takeReclaim_takes n f hst (by rw [← hdecide, Part.decideChain_lowest hlong hsat hlow, if_neg (by simp [hon]), if_pos hclosed])]

end Sys2Proof.Machine
end

section
/-! SUPPORT. The FORMAT order as a dispatch hands it over (R160). -/

namespace Sys2Proof.Machine

/-- A lane record whose requester drops its work (R73). -/
theorem LaneRec.dropWork_reclaim (r : LaneRec) :
    (r.dropWork .reclaim).waiting.reclaim = none
      ∧ (∀ g, (r.dropWork .reclaim).inFlight = some g → g.requester = .reclaim → g.discard = true)
      ∧ (∀ rq ∈ [Requester.mount, .record, .scan, .head], (r.dropWork .reclaim).waiting.get rq = r.waiting.get rq)
      ∧ (r.dropWork .reclaim).inFlight.map (fun g => (g.requester, g.op)) = r.inFlight.map (fun g => (g.requester, g.op)) := by
  refine ⟨rfl, fun g hg hr => ?_, ?_, ?_⟩
  · obtain ⟨f, -, rfl⟩ := Option.map_eq_some_iff.1 (show r.inFlight.map (InFlight.dropped .reclaim) = some g from hg)
    rw [InFlight.dropped] at hr ⊢
    split at hr
    · next h => rw [if_pos h]
    · next h => exact absurd hr h
  · simp only [List.forall_mem_cons, List.not_mem_nil, false_implies, implies_true, and_true]
    exact ⟨rfl, rfl, rfl, rfl⟩
  · rw [LaneRec.dropWork_eq, Option.map_map]
    refine congrArg (r.inFlight.map ·) (funext fun f => ?_)
    simp only [Function.comp_apply, InFlight.dropped]
    split <;> rfl

theorem LaneRec.dropWork_reclaim_heldBack (r : LaneRec) (discards : Prop)
    (h : discards ↔ ∃ op ms, r.inFlight = some ⟨.reclaim, op, ms, true⟩) :
    (discards → (r.dropWork .reclaim).heldBack = none) ∧ (¬ discards → (r.dropWork .reclaim).heldBack = r.heldBack) := by
  have hiff : r.discards .reclaim = true ↔ discards := by
    rw [LaneRec.discards_iff, h]
    simp
  exact ⟨fun hd => if_pos (hiff.2 hd), fun hd => if_neg (mt hiff.1 hd)⟩

/-! ## The reclaim unit suspended (R160) -/

/-- The part once the format control holds a FORMAT. -/
def Part.formatHeld (n : SlotNo) (p : Part) : Part := { p.suspendReclaim with format := some ⟨n, false, [], 0⟩ }

theorem Part.takeFormat_inhibited {p : Part} (n : SlotNo) (f : OrderFields) (h : p.seen.winh = true) :
    p.takeFormat n f = p.complete n (faultResult .writeInhibited) := if_pos h

theorem Part.takeFormat_held {p : Part} (n : SlotNo) (f : OrderFields) (h : p.seen.winh = false) :
    p.takeFormat n f = p.formatHeld n := if_neg (Bool.eq_false_iff.1 h)

/-- All that holding a FORMAT changes: the format control, the reclaim unit and its requests, and the tail. -/
theorem Part.formatHeld_eq (p : Part) (n : SlotNo) : p.formatHeld n = { p with
    format := some ⟨n, false, [], 0⟩,
    head := { p.head with
      copyReq := none,
      orderReq := if p.reclaim.state = .copying then p.head.orderReq.map fun r => { r with waitingRoom := false }
        else p.head.orderReq },
    reclaim := { p.reclaim with
      state := .idle, tail := none, inHand := none, copyWait := false, latchedTrigger := false, releasePending := false,
      suspended := true },
    segs := (p.reopenTail p.reclaim.tail).segs, lanes := p.lanes.map (LaneRec.dropWork .reclaim) } := by
  have hdrop : p.dropWalk = { p with
      head.copyReq := none, reclaim := { p.reclaim with inHand := none, copyWait := false, tail := none },
      segs := (p.reopenTail p.reclaim.tail).segs, lanes := p.lanes.map (LaneRec.dropWork .reclaim) } := by
    rw [Part.dropWalk_eq, Part.reopenTail_eq]
    cases p.reclaim.tail <;> rfl
  rw [Part.formatHeld, Part.suspendReclaim, hdrop, Part.toReclaim_eq]
  by_cases hcopying : p.reclaim.state = .copying
  · rw [if_pos hcopying, if_pos (by exact ⟨hcopying, by decide⟩)]
  · rw [if_neg hcopying, if_neg (by exact fun h => hcopying h.1)]

theorem Part.formatHeld_seg (p : Part) (n : SlotNo) (a : SegAddr) : (p.formatHeld n).seg a = { p.seg a with
    state := if p.reclaim.tail = some a ∧ (p.seg a).state = .reclaiming then .closed else (p.seg a).state } := by
  rw [Part.formatHeld_eq]
  exact Part.seg_reopenTail p p.reclaim.tail a

theorem Part.formatHeld_lane (p : Part) (n : SlotNo) (l : Lane) : (p.formatHeld n).lane l = (p.lane l).dropWork .reclaim := by
  rw [Part.formatHeld_eq]
  exact Quad.get_map ..

/-- FORMAT passes every dispatch check (R105). -/
theorem dispatchCheck_format (m : Bool) {f : OrderFields} (h : f.kind = 6) : dispatchCheck m f = none :=
  (dispatchChecks m f).2.2.2.2.2.2.1 h

/-- Settles O53, from the part with the reclaim unit suspended. -/
theorem formatSuspends : Obligations.FormatSuspends := by
  intro s n f hlive h hkind hrecord hscan hattached
  have htaken := (exec_format s).trans (run_dispatch_taken hlive h
    (dispatchCheck_format _ hkind) (beq_iff_eq.2 hkind) ((Part.formatFree_iff _).2 ⟨hrecord, hscan, hattached⟩))
  refine ⟨fun hwinh => htaken.trans ?_, fun hwinh => ?_⟩
  · rw [Part.takeFormat_inhibited (p := s.part.startOrder n) n f hwinh]
  rw [Part.takeFormat_held (p := s.part.startOrder n) n f hwinh] at htaken
  refine ⟨_, htaken, ?_⟩
  have hheld := (s.part.startOrder n).formatHeld_eq n
  have hslot := Part.slot_startOrder_same s.part n
  have hseg := (s.part.startOrder n).formatHeld_seg n
  have hlane := (s.part.startOrder n).formatHeld_lane n
  generalize (s.part.startOrder n).formatHeld n = q at hheld hseg hlane
  obtain ⟨hpins, hseen, hbus, hzeroing, hmem, horders, hformat, hrec, hscn, hhead, hdir, hsegs, hlast, hreclaim, hmount, hpower, hfree⟩ :=
    q.refreshErase_frame
  have hfields := q.refreshErase_lane_fields
  have hwaiting := fun l rq => q.refreshErase_waiting l (rq := rq)
  have hsame := fun a => Part.seg_congr hsegs a
  have hslotkept := q.refreshErase_slot n
  generalize q.refreshErase = t at *
  subst hheld
  refine ⟨hformat, congrArg Reclaim.state hreclaim, congrArg Reclaim.tail hreclaim, congrArg Reclaim.latchedTrigger hreclaim,
    congrArg Reclaim.releasePending hreclaim, congrArg Reclaim.suspended hreclaim, congrArg Reclaim.inHand hreclaim,
    (congrArg Head.copyReq hhead :), hslotkept.trans hslot, hdir, congrArg Orders.postQueue horders, (congrArg Head.seqCounter hhead :),
    (congrArg Head.epochCounter hhead :), (congrArg Head.append hhead :), (congrArg Head.recordsInHead hhead :), hlast,
    congrArg Reclaim.copyWait hreclaim, (congrArg Reclaim.attached hreclaim).trans hattached, hmount, horders, hhead, hreclaim,
    hrec.trans hrecord, hscn.trans hscan, hpins, hseen, hzeroing, hfree, hbus, hpower, hmem, fun a => (hsame a).trans (hseg a),
    fun l => ?_⟩
  obtain ⟨hstate, hcount, hflight, hback, hgranted, hlink, -, -, -, hw, -⟩ := hfields l
  rw [hlane l] at hstate hcount hflight hback hgranted hlink hw
  obtain ⟨hnone, hdiscard, hothers, hops⟩ := (s.part.lane l).dropWork_reclaim
  refine ⟨hw.trans hnone, fun g hg => hdiscard g (hflight ▸ hg), fun rq hrq => ?_, ?_, hstate, hcount, hgranted, hlink, hflight, ?_⟩
  · have hne : rq ≠ .erase := by
      rintro rfl
      simp at hrq
    rw [← hothers rq hrq]
    exact (hwaiting l rq hne).trans (by rw [hlane l]; rfl)
  · rw [← hops]
    exact congrArg (Option.map _) hflight
  · obtain ⟨hyes, hno⟩ := (s.part.lane l).dropWork_reclaim_heldBack _ Iff.rfl
    exact ⟨fun hd => hback.trans (hyes hd), fun hd => hback.trans (hno hd)⟩

end Sys2Proof.Machine
end

section
/-! SUPPORT. The tables as FORMAT leaves them, and the segments it waits on (R33, R55, R160 to R162). -/

namespace Sys2Proof.Machine

/-! ## One segment's entry (R55) -/

theorem SegEntry.formatted_eq (present : Bool) (e : SegEntry) : e.formatted present = { e with
    state := if ((e.state = .unswept ∨ e.state = .free ∨ e.state = .eraseWait) ∧ present = true)
      ∨ e.state = .head ∨ e.state = .closed ∨ e.state = .reclaiming then .eraseWait else e.state,
    claimed := 0 } := by
  rw [SegEntry.formatted]
  split
  all_goals
    next h => cases present <;> simp [h]

/-- A formatted segment is in no chain state. -/
theorem SegEntry.formatted_not_inChain (present : Bool) (e : SegEntry) : (e.formatted present).state.inChain = false := by
  rw [SegEntry.formatted]
  split
  all_goals
    next h => cases present <;> simp [h, SegState.inChain]

/-- A formatted segment of a PRESENT lane is not FREE. -/
theorem SegEntry.formatted_not_free (e : SegEntry) : (e.formatted true).state ≠ .free := by
  rw [SegEntry.formatted]
  split
  all_goals
    next h => simp [h]

/-! ## The tables (R33, R161) -/

theorem Part.mem_entries_mapSegs {p : Part} {f : SegAddr → SegEntry → SegEntry} {x : SegAddr × SegEntry}
    (h : x ∈ (p.mapSegs f).entries) : ∃ e, x.2 = f x.1 e := by
  rw [Part.mem_entries_iff, Part.mapSegs_get, addrsFrom_map_getElem?, Option.map_eq_some_iff] at h
  obtain ⟨e, -, he⟩ := h
  refine ⟨e, he.symm.trans ?_⟩
  rw [Nat.zero_add]

/-- The part's tables are as FORMAT leaves those of another. -/
structure Part.FormattedFrom (p t : Part) : Prop where
  segs : t.segs = p.formatTables.segs
  dir : t.dir = []
  head : t.head = { p.head with seqCounter := 1, epochCounter := 1, recordsInHead := 0 }
  last : t.lastHeadLane = 3
  mount : t.mount = { p.mount with state := p.formatState, step := .ended }
  present : ∀ l, t.present l = p.present l

section
variable {p t : Part} (h : p.FormattedFrom t)
include h

theorem Part.FormattedFrom.entry {x : SegAddr × SegEntry} (hx : x ∈ t.entries) :
    ∃ e : SegEntry, x.2 = e.formatted (p.present x.1.lane) := by
  refine Part.mem_entries_mapSegs (p := p) (f := fun a e => e.formatted (p.present a.lane)) (Part.mem_entries_iff.2 ?_)
  have hget := Part.mem_entries_iff.1 hx
  rw [h.segs] at hget
  exact hget

theorem Part.FormattedFrom.chain : t.chain = [] := by
  refine List.filter_eq_nil_iff.2 fun x hx => ?_
  obtain ⟨e, he⟩ := h.entry hx
  rw [he, e.formatted_not_inChain]
  exact Bool.false_ne_true

theorem Part.FormattedFrom.freeCount : t.freeCount = 0 := by
  refine List.countP_eq_zero.2 fun x hx => ?_
  obtain ⟨e, he⟩ := h.entry hx
  rw [Bool.and_eq_true, beq_iff_eq, h.present, he]
  rintro ⟨hfree, hpresent⟩
  rw [hpresent] at hfree
  exact e.formatted_not_free hfree

theorem Part.FormattedFrom.claimed : ∀ x ∈ t.entries, x.2.claimed = 0 := by
  intro x hx
  obtain ⟨e, he⟩ := h.entry hx
  rw [he, SegEntry.formatted_eq]

theorem Part.FormattedFrom.seg {a : SegAddr} (ha : a.seg < (p.segs.get a.lane).length) :
    t.seg a = (p.seg a).formatted (p.present a.lane) := by
  rw [Part.seg_congr h.segs]
  exact Part.seg_mapSegs (p := p) (f := fun a e => e.formatted (p.present a.lane)) a ha

theorem Part.FormattedFrom.mount_state : t.mount.state = (if ∃ l, (p.lane l).state = .offline then .degraded
    else if ∃ l, p.present l = true then .mounted else p.mount.state) := by
  rw [h.mount]
  exact if_congr p.anyOffline_iff rfl (if_congr p.anyPresent_iff rfl rfl)

theorem Part.FormattedFrom.refreshErase : p.FormattedFrom t.refreshErase := by
  obtain ⟨-, -, -, -, -, -, -, -, -, hhead, hdir, hsegs, hlast, -, hmount, -, -⟩ := t.refreshErase_frame
  exact ⟨hsegs.trans h.segs, hdir.trans h.dir, hhead.trans h.head, hlast.trans h.last, hmount.trans h.mount,
    fun l => (t.refreshErase_present l).trans (h.present l)⟩

end

theorem Part.formattedFrom_formatTables (p : Part) : p.FormattedFrom p.formatTables :=
  ⟨rfl, rfl, rfl, rfl, rfl, fun _ => rfl⟩

/-- The control's own part of the state is not among the tables. -/
theorem Part.FormattedFrom.congr {p q t : Part} (h : p.FormattedFrom q) (hsegs : t.segs = q.segs) (hdir : t.dir = q.dir)
    (hhead : t.head = q.head) (hlast : t.lastHeadLane = q.lastHeadLane) (hmount : t.mount = q.mount) (hlanes : t.lanes = q.lanes) :
    p.FormattedFrom t :=
  ⟨hsegs.trans h.segs, hdir.trans h.dir, hhead.trans h.head, hlast.trans h.last, hmount.trans h.mount, fun l => by
    rw [Part.present, Part.lane, hlanes]
    exact h.present l⟩

theorem Part.FormattedFrom.complete {p q : Part} (h : p.FormattedFrom q) (n : SlotNo) (r : Result) :
    p.FormattedFrom (q.complete n r) :=
  h.congr (by simp) (by simp) (by simp) (by simp) (by simp) (by simp)

/-! ## The segments waited on (R161, R162) -/

theorem Part.mem_formatSet_iff (p : Part) (a : SegAddr) : a ∈ p.formatSet ↔
    ∃ e, (a, e) ∈ p.entries ∧ (e.state = .eraseWait ∨ e.state = .erasing) ∧ p.present a.lane = true := by
  simp only [Part.formatSet, List.mem_map, List.mem_filter, Bool.and_eq_true, Bool.or_eq_true, beq_iff_eq]
  constructor
  · rintro ⟨⟨b, e⟩, ⟨hmem, hstate⟩, rfl⟩
    exact ⟨e, hmem, hstate⟩
  · rintro ⟨e, hmem, hstate⟩
    exact ⟨(a, e), ⟨hmem, hstate⟩, rfl⟩

section
variable {p : Part} {job : FormatJob} (hjob : p.format = some job) (htaken : job.taken = false) (happend : p.head.append = none)
include hjob htaken happend

theorem Part.takeTable_eq : p.takeTable =
    if p.formatTables.formatSet = [] then
      p.formatTables.endFormat { job with taken := true, waitSet := p.formatTables.formatSet }
    else { p.formatTables with format := some { job with taken := true, waitSet := p.formatTables.formatSet } } := by
  simp only [Part.takeTable, hjob, htaken, happend, Option.isSome_none, Bool.or_self, Bool.false_eq_true, if_false]
  exact if_congr List.isEmpty_iff rfl rfl

theorem Part.takeTable_waits (h : p.formatTables.formatSet ≠ []) : p.takeTable =
    { p.formatTables with format := some { job with taken := true, waitSet := p.formatTables.formatSet } } := by
  rw [Part.takeTable_eq hjob htaken happend, if_neg h]

theorem Part.takeTable_ends (h : p.formatTables.formatSet = []) : p.takeTable = Part.complete job.slot
    { okResult with length := BitVec.ofNat 16 job.bad }
    { p.formatTables with format := none, reclaim := { Reclaim.reset with attached := p.reclaim.attached } } := by
  rw [Part.takeTable_eq hjob htaken happend, if_pos h]
  rfl

/-- The control and the reclaim unit are free, and the order's outcome is written as a completion writes it. -/
theorem Part.takeTable_outcome (h : p.formatTables.formatSet = []) :
    p.takeTable.format = none ∧ p.takeTable.reclaim = { Reclaim.reset with attached := p.reclaim.attached }
      ∧ p.takeTable.orders = (p.complete job.slot { okResult with length := BitVec.ofNat 16 job.bad }).orders
      ∧ p.takeTable.mem = (p.complete job.slot { okResult with length := BitVec.ofNat 16 job.bad }).mem := by
  rw [Part.takeTable_ends hjob htaken happend h, Part.complete_orders, Part.complete_orders, Part.complete_mem, Part.complete_mem]
  refine ⟨?_, ?_, rfl, rfl⟩
  · simp only [Part.complete_frame]
  · simp only [Part.complete_frame]

theorem Part.takeTable_formatted : p.FormattedFrom p.takeTable := by
  have htables := p.formattedFrom_formatTables
  by_cases h : p.formatTables.formatSet = []
  · rw [Part.takeTable_ends hjob htaken happend h]
    have hends := htables.congr (t := { p.formatTables with
      format := none, reclaim := { Reclaim.reset with attached := p.reclaim.attached } }) rfl rfl rfl rfl rfl rfl
    exact hends.complete job.slot _
  · rw [Part.takeTable_waits hjob htaken happend h]
    generalize p.formatTables = q at htables
    exact htables.congr rfl rfl rfl rfl rfl rfl

end

/-- The set FORMAT waits on is read from the tables it leaves. -/
theorem Part.FormattedFrom.mem_formatSet {p t : Part} (h : p.FormattedFrom t) (a : SegAddr) : a ∈ p.formatTables.formatSet ↔
    ∃ e, (a, e) ∈ t.entries ∧ (e.state = .eraseWait ∨ e.state = .erasing) ∧ p.present a.lane = true := by
  rw [Part.mem_formatSet_iff]
  refine exists_congr fun e => and_congr_left fun _ => ?_
  rw [Part.mem_entries_iff, Part.mem_entries_iff, h.segs]

theorem exec_formatTakeTable {s : State} (h : s.part.live = true) :
    exec .formatTakeTable s = .next (s.withPart s.part.takeTable.refreshErase) := run_act_live (f := Part.takeTable) h

/-- Settles O54, from the tables as FORMAT leaves them. -/
theorem formatTakesTable : Obligations.FormatTakesTable := by
  intro s job hlive hjob htaken happend
  refine ⟨_, exec_formatTakeTable hlive, ?_⟩
  have hformatted := (Part.takeTable_formatted hjob htaken happend).refreshErase
  obtain ⟨-, -, -, -, hmem, horders, hformat, -, -, -, -, -, -, hreclaim, -, -, -⟩ := s.part.takeTable.refreshErase_frame
  refine ⟨hformatted.dir, (congrArg Head.seqCounter hformatted.head :), (congrArg Head.epochCounter hformatted.head :),
    (congrArg Head.recordsInHead hformatted.head :), hformatted.last, hformatted.chain, hformatted.freeCount, hformatted.claimed,
    hformatted.mount_state, (congrArg Mount.damaged hformatted.mount :), (congrArg Mount.outcome hformatted.mount :),
    fun a ha => (hformatted.seg ha).trans (SegEntry.formatted_eq _ _), s.part.formatTables.formatSet, hformatted.mem_formatSet,
    fun hset => ?_, fun hset => ?_⟩
  · rw [Part.takeTable_waits hjob htaken happend hset] at hmem horders hformat hreclaim ⊢
    exact ⟨hformat, horders, hmem, hreclaim⟩
  · obtain ⟨hformatEnd, hreclaimEnd, hordersEnd, hmemEnd⟩ := Part.takeTable_outcome hjob htaken happend hset
    exact ⟨hformat.trans hformatEnd, hreclaim.trans hreclaimEnd, horders.trans hordersEnd, hmem.trans hmemEnd⟩

end Sys2Proof.Machine
end

section
/-! SUPPORT. The head writer's arbiter, its grants and the placement of an append (R124 to R130). -/

namespace Sys2Proof.Machine

/-! ## The arbiter (R124) -/

theorem Part.orderEligible_iff (p : Part) : p.orderEligible = true ↔
    p.power.state = .active ∧ ∃ r, p.head.orderReq = some r ∧ r.waitingRoom = false := by
  rw [Part.orderEligible, Bool.and_eq_true, p.active_iff, Option.any_eq_true]
  simp only [Bool.not_eq_true']

theorem Part.copyEligible_iff (p : Part) : p.copyEligible = true ↔
    p.power.state = .active ∧ p.seen.winh = false ∧ p.head.copyReq ≠ none := by
  rw [Part.copyEligible, Bool.and_eq_true, Bool.and_eq_true, p.active_iff, Bool.not_eq_true', Option.isSome_iff_ne_none, and_assoc]

theorem Part.mayGrantOrder_iff (p : Part) : p.mayGrantOrder = true ↔ p.head.append = none ∧ p.orderEligible = true
    ∧ (p.copyEligible = true → p.head.lastGranted = .reclaimUnit) := by
  have hturn : (!(p.copyEligible && p.head.lastGranted == .recordUnit)) = true
      ↔ (p.copyEligible = true → p.head.lastGranted = .reclaimUnit) := by
    cases p.copyEligible <;> cases p.head.lastGranted <;> decide
  rw [Part.mayGrantOrder, Bool.and_eq_true, Bool.and_eq_true, Option.isNone_iff_eq_none, hturn, and_assoc]

theorem Part.mayGrantCopy_iff (p : Part) : p.mayGrantCopy = true ↔ p.head.append = none ∧ p.copyEligible = true
    ∧ (p.orderEligible = true → p.head.lastGranted = .recordUnit) := by
  have hturn : (!(p.orderEligible && p.head.lastGranted == .reclaimUnit)) = true
      ↔ (p.orderEligible = true → p.head.lastGranted = .recordUnit) := by
    cases p.orderEligible <;> cases p.head.lastGranted <;> decide
  rw [Part.mayGrantCopy, Bool.and_eq_true, Bool.and_eq_true, Option.isNone_iff_eq_none, hturn, and_assoc]

/-! ## The grants (R125, R126) -/

theorem exec_orderAppendGrant {s : State} (h : s.part.live = true) :
    exec .orderAppendGrant s = .next (s.withPart s.part.grantOrder.refreshErase) := run_act_live (f := Part.grantOrder) h

theorem exec_copyGrant {s : State} (h : s.part.live = true) :
    exec .copyGrant s = .next (s.withPart s.part.grantCopy.refreshErase) := run_act_live (f := Part.grantCopy) h

theorem Part.grantOrder_kept {p : Part} (h : p.mayGrantOrder = false) : p.grantOrder = p := by
  unfold Part.grantOrder
  split
  · rfl
  · rw [h, if_neg Bool.false_ne_true]

theorem Part.grantCopy_kept {p : Part} (h : p.mayGrantCopy = false) : p.grantCopy = p := by
  unfold Part.grantCopy
  split
  · rfl
  · rw [h, if_neg Bool.false_ne_true]

/-- The part as the record unit's request leaves it at its grant. -/
def Part.orderGranted (p : Part) : Part := { p with head.orderReq := none, head.lastGranted := .recordUnit }

/-- The part as the reclaim unit's copy leaves it at its grant. -/
def Part.copyGranted (p : Part) : Part := { p with head.copyReq := none, head.lastGranted := .reclaimUnit }

section
variable {p : Part} {r : OrderReq} (hr : p.head.orderReq = some r) (hmay : p.mayGrantOrder = true)
include hr hmay

theorem Part.grantOrder_eq : p.grantOrder = p.grantRequest r := by
  simp only [Part.grantOrder, hr, hmay, if_true]

theorem Part.grantOrder_inhibited (hwinh : p.seen.winh = true) : p.grantOrder
    = p.orderGranted.finishRecord { faultResult .writeInhibited with sequence := r.sequence.getD 0 } := by
  rw [Part.grantOrder_eq hr hmay]
  exact if_pos hwinh

variable (hwinh : p.seen.winh = false)
include hwinh

theorem Part.grantOrder_again {n : Long} (hn : r.sequence = some n) :
    p.grantOrder = p.orderGranted.placement ⟨.order r, n, false, .placing, 0, false, 0xFFFFFFFF, none⟩ := by
  rw [Part.grantOrder_eq hr hmay, Part.grantRequest, if_neg (Bool.eq_false_iff.1 hwinh)]
  simp only [hn]
  rfl

variable (hfresh : r.sequence = none)
include hfresh

theorem Part.grantOrder_spent (hspent : p.head.seqCounter = 0xFFFFFFFF) :
    p.grantOrder = p.orderGranted.finishRecord (faultResult .sequenceSpent) := by
  rw [Part.grantOrder_eq hr hmay, Part.grantRequest, if_neg (Bool.eq_false_iff.1 hwinh)]
  simp only [hfresh]
  exact if_pos hspent

theorem Part.grantOrder_fresh (hleft : p.head.seqCounter ≠ 0xFFFFFFFF) : p.grantOrder =
    Part.placement ⟨.order r, p.head.seqCounter, false, .placing, 0, false, 0xFFFFFFFF, none⟩
      { p.orderGranted with head.seqCounter := p.head.seqCounter + 1 } := by
  rw [Part.grantOrder_eq hr hmay, Part.grantRequest, if_neg (Bool.eq_false_iff.1 hwinh)]
  simp only [hfresh]
  exact if_neg hleft

end

section
variable {p : Part} {c : CopyReq} (hc : p.head.copyReq = some c) (hmay : p.mayGrantCopy = true)
include hc hmay

theorem Part.grantCopy_eq : p.grantCopy = p.grantCopyReq c := by
  simp only [Part.grantCopy, hc, hmay, if_true]

theorem Part.grantCopy_unclaimed (h : ∀ x, dirLookup p.dir c.key = some x → x.loc ≠ c.loc) :
    p.grantCopy = p.copyGranted.copyAnswer .discarded := by
  rw [Part.grantCopy_eq hc hmay, Part.grantCopyReq, dirClaim_none h]
  rfl

theorem Part.grantCopy_claimed {x : DirEntry} (hx : dirLookup p.dir c.key = some x) (hloc : x.loc = c.loc) :
    p.grantCopy = p.copyGranted.placement ⟨.copy c, c.sequence, false, .placing, 0, false, 0xFFFFFFFF, none⟩ := by
  rw [Part.grantCopy_eq hc hmay, Part.grantCopyReq, dirClaim_some hx hloc]
  rfl

end

/-! ## Placement (R127 to R130) -/

theorem SegEntry.hasRoom_iff (e : SegEntry) (n : Nat) : e.hasRoom n = true ↔ e.used = e.goodEnd - 1 ∧ e.used + n ≤ 126 := by
  rw [SegEntry.hasRoom, Bool.and_eq_true, beq_iff_eq, decide_eq_true_eq]
  rfl

section
variable {p : Part} (a : Append)

theorem Part.placement_open (h : p.headSeg = none) : p.placement a = p.openSegment a := by
  simp only [Part.placement, h]

theorem Part.openSegment_unmet (h : p.freeCount < a.work.reserve) : p.openSegment a = p.reserveUnmet a := if_pos h

variable {sg : SegAddr}

theorem Part.openSegment_spent (h : a.work.reserve ≤ p.freeCount) (hspent : p.head.epochCounter = 0xFFFFFFFF) :
    p.openSegment a = p.endAppend .sequenceSpent a := (if_neg (Nat.not_lt.2 h)).trans (if_pos hspent)

theorem Part.openSegment_opens (h : a.work.reserve ≤ p.freeCount) (hleft : p.head.epochCounter ≠ 0xFFFFFFFF)
    (hsg : p.rotation = some sg) : p.openSegment a = Part.compareLow (Part.place sg.lane .head
      ⟨.programLine sg.seg 0 (segmentHeader p.head.epochCounter sg), a.started⟩
      { p.modSeg sg (fun e => { e with state := .opening, epoch := p.head.epochCounter }) with
        head.epochCounter := p.head.epochCounter + 1, lastHeadLane := sg.lane,
        head.append := some { a with step := .opening sg } }) := by
  have hspent : ¬ p.head.epochCounter = spent := hleft
  simp only [Part.openSegment, if_neg (Nat.not_lt.2 h), if_neg hspent, hsg]
  rfl

variable {e : SegEntry} (hhead : p.headSeg = some (sg, e))
include hhead

theorem Part.placement_room (h : e.used = e.goodEnd - 1 ∧ e.used + a.work.lines ≤ 126) :
    p.placement a = p.beginRecord sg (e.used + 1) a := by
  have hroom := (e.hasRoom_iff a.work.lines).2 h
  simp only [Part.placement, hhead, hroom, if_true]

variable (hfull : ¬ (e.used = e.goodEnd - 1 ∧ e.used + a.work.lines ≤ 126))
include hfull

theorem Part.placement_unmet (h : p.freeCount < a.work.reserve) : p.placement a = p.reserveUnmet a := by
  have hroom : ¬ e.hasRoom a.work.lines = true := mt (e.hasRoom_iff _).1 hfull
  simp only [Part.placement, hhead, if_neg hroom, if_pos h]

theorem Part.placement_closes (h : a.work.reserve ≤ p.freeCount) : p.placement a = Part.place sg.lane .head
    ⟨.programLine sg.seg 127 (trailer (p.seg sg).epoch (p.seg sg).goodEnd p.head.recordsInHead), a.started⟩
    { p with head.append := some { a with step := .closing sg .noRoom } } := by
  have hroom : ¬ e.hasRoom a.work.lines = true := mt (e.hasRoom_iff _).1 hfull
  simp only [Part.placement, hhead, if_neg hroom, if_neg (Nat.not_lt.2 h)]
  rfl

end

section
variable (p : Part) {a : Append}

theorem Part.reserveUnmet_order {r : OrderReq} (h : a.work = .order r) : p.reserveUnmet a =
    if a.started = false ∧ p.reclaim.state = .copying then
      { p with head.append := none, head.orderReq := some { r with sequence := some a.sequence, waitingRoom := true } }
    else p.endAppend .journalFull a := by
  simp only [Part.reserveUnmet, h]
  exact if_congr (by rw [Bool.and_eq_true, Bool.not_eq_true', beq_iff_eq]) rfl rfl

theorem Part.endAppend_order {r : OrderReq} (h : a.work = .order r) (why : AppendEnd) : p.endAppend why a =
    Part.finishRecord { faultResult why.reason with retried := a.repeated, sequence := a.sequence }
      { p with head.append := none } := by
  simp only [Part.endAppend, h]

theorem Part.endAppend_copy {c : CopyReq} (h : a.work = .copy c) (why : AppendEnd) :
    p.endAppend why a = Part.copyAnswer why.answer { p with head.append := none } := by
  simp only [Part.endAppend, h]

theorem Part.reserveUnmet_copy {c : CopyReq} (h : a.work = .copy c) :
    p.reserveUnmet a = Part.copyAnswer .journalFull { p with head.append := none } := by
  simp only [Part.reserveUnmet, h, Part.endAppend_copy p h]
  rfl

end

/-! ## A record begun in the head (R127, R131) -/

theorem Part.seg_of_headSeg {p : Part} {sg : SegAddr} {e : SegEntry} (h : p.headSeg = some (sg, e)) : p.seg sg = e :=
  Part.seg_of_mem (List.mem_of_find?_eq_some h)

section
variable {p : Part} {sg : SegAddr} {e : SegEntry} {a : Append} (hhead : p.headSeg = some (sg, e))
  (hend : e.used + 1 = e.goodEnd) (hlines : e.used + a.work.lines ≤ 126) (hstarted : a.started = false)
include hhead hend hlines hstarted

omit hstarted in
theorem Part.placement_begins : p.placement a = p.programNext sg (e.used + 1)
    { a with step := .programming sg (e.used + 1), done := 0, crc := 0xFFFFFFFF, repeated := a.repeated || a.started } :=
  Part.placement_room a hhead ⟨by omega, hlines⟩

/-- An order append's first line waits on the head's lane. -/
theorem Part.placement_order {r : OrderReq} (hw : a.work = .order r) :
    let payload := Mem.readBytes p.mem r.bufOffset.toNat (min r.length 240)
    p.placement a = Part.place sg.lane .head ⟨.programLine sg.seg (e.used + 1) (orderLine
        (recordHeader r.tombstone false r.length r.key a.sequence e.epoch) payload r.length 0 (crc32Feed 0xFFFFFFFF payload)), false⟩
      { p with head.append := some { a with
        step := .programming sg (e.used + 1), done := 0, crc := crc32Feed 0xFFFFFFFF payload,
        repeated := a.repeated || a.started } } := by
  intro payload
  rw [Part.placement_begins hhead hend hlines, Part.programNext_order p sg _ (by exact hw), Part.seg_of_headSeg hhead]
  simp only [Nat.mul_zero, Nat.zero_sub, Nat.add_zero, Nat.sub_zero, if_true, hstarted]
  rfl

/-- A copy's first line waits on the head's lane. -/
theorem Part.placement_copy {c : CopyReq} (hw : a.work = .copy c) :
    p.placement a = Part.place sg.lane .head ⟨.programLine sg.seg (e.used + 1) (copyLine c e.epoch 0), false⟩
      { p with head.append := some { a with
        step := .programming sg (e.used + 1), done := 0, crc := 0xFFFFFFFF, repeated := a.repeated || a.started } } := by
  rw [Part.placement_begins hhead hend hlines, Part.programNext_copy p sg _ (by exact hw), Part.seg_of_headSeg hhead]
  simp only [Nat.add_zero, hstarted]

end

/-- What a program placed by the head writer leaves once the erase requests are up to date. -/
theorem Part.place_head_refreshed (p : Part) (l : Lane) (q : Request) :
    let t := (p.place l .head q).refreshErase
    t.head = p.head ∧ t.mem = p.mem ∧ t.orders = p.orders ∧ t.dir = p.dir ∧ t.segs = p.segs
      ∧ (t.lane l).waiting.head = some q := by
  intro t
  obtain ⟨-, -, -, -, hmem, horders, -, -, -, hhead, hdir, hsegs, -, -, -, -, -⟩ := (p.place l .head q).refreshErase_frame
  refine ⟨hhead, hmem, horders, hdir, hsegs, ?_⟩
  refine ((p.place l .head q).refreshErase_waiting l (rq := .head) (by decide)).trans ?_
  rw [Part.lane_place_same, LaneRec.request_waits q ((p.lane l).discards_never rfl)]
  rfl

end Sys2Proof.Machine
end

section
/-! SUPPORT. What the head writer's two grants do (R124 to R130). -/

namespace Sys2Proof.Machine

/-! ## Grants into a head with room -/

/-- The payload check register once a request's first payload bytes are taken. -/
def Part.orderFirstCrc (p : Part) (r : OrderReq) : Long :=
  crc32Feed 0xFFFFFFFF (Mem.readBytes p.mem r.bufOffset.toNat (min r.length 240))

/-- The program of the first line of a fresh request's record, after the used lines of the head. -/
def Part.orderFirst (p : Part) (r : OrderReq) (sg : SegAddr) (e : SegEntry) : Request :=
  ⟨.programLine sg.seg (e.used + 1) (orderLine (recordHeader r.tombstone false r.length r.key p.head.seqCounter e.epoch)
    (Mem.readBytes p.mem r.bufOffset.toNat (min r.length 240)) r.length 0 (p.orderFirstCrc r)), false⟩

/-- The append of a fresh request as its first line is placed. -/
def Part.orderAppend (p : Part) (r : OrderReq) (sg : SegAddr) (e : SegEntry) : Append :=
  ⟨.order r, p.head.seqCounter, false, .programming sg (e.used + 1), 0, false, p.orderFirstCrc r, none⟩

/-- The part with a fresh request's append begun, its first line not yet placed. -/
def Part.orderBegun (p : Part) (r : OrderReq) (sg : SegAddr) (e : SegEntry) : Part := { p.orderGranted with
  head.seqCounter := p.head.seqCounter + 1, head.append := some (p.orderAppend r sg e) }

/-- A copy's append as its first line is placed. -/
def copyAppend (c : CopyReq) (sg : SegAddr) (e : SegEntry) : Append :=
  ⟨.copy c, c.sequence, false, .programming sg (e.used + 1), 0, false, 0xFFFFFFFF, none⟩

/-- The part with a copy's append begun, its first line not yet placed. -/
def Part.copyBegun (p : Part) (c : CopyReq) (sg : SegAddr) (e : SegEntry) : Part :=
  { p.copyGranted with head.append := some (copyAppend c sg e) }

/-- A fresh request granted into a head with room (R12, R67, R125, R127, R131). -/
theorem orderGrant_room {s : State} {r : OrderReq} {a : SegAddr} {e : SegEntry} (hlive : s.part.live = true)
    (hr : s.part.head.orderReq = some r) (hmay : s.part.mayGrantOrder = true) (hfresh : r.sequence = none)
    (hwinh : s.part.seen.winh = false) (hleft : s.part.head.seqCounter ≠ 0xFFFFFFFF) (hhead : s.part.headSeg = some (a, e))
    (hend : e.used + 1 = e.goodEnd) (hlines : e.used + r.lines ≤ 126) :
    ∃ t first ap, exec .orderAppendGrant s = .next t ∧ t.part.head.seqCounter = s.part.head.seqCounter + 1
      ∧ t.part.head.append = some ap ∧ ap.sequence = s.part.head.seqCounter ∧ ap.work = .order r
      ∧ ap.step = .programming a first ∧ first = e.used + 1 ∧ ap.done = 0 ∧ ap.started = false
      ∧ t.part.head.orderReq = none ∧ t.part.head.lastGranted = .recordUnit
      ∧ (let payload := Mem.readBytes s.part.mem r.bufOffset.toNat (min r.length 240)
         (t.part.lane a.lane).waiting.head = some ⟨.programLine a.seg first (orderLine
           (recordHeader r.tombstone false r.length r.key s.part.head.seqCounter e.epoch) payload r.length 0
           (crc32Feed 0xFFFFFFFF payload)), false⟩)
      ∧ t.part.mem = s.part.mem ∧ t.part.orders = s.part.orders ∧ t.part.dir = s.part.dir ∧ t.part.segs = s.part.segs
      ∧ t.part.head.epochCounter = s.part.head.epochCounter := by
  obtain ⟨hh, hmem, horders, hdir, hsegs, hwaits⟩ := (s.part.orderBegun r a e).place_head_refreshed a.lane (s.part.orderFirst r a e)
  have hexec : exec .orderAppendGrant s
      = .next (s.withPart ((s.part.orderBegun r a e).place a.lane .head (s.part.orderFirst r a e)).refreshErase) := by
    rw [exec_orderAppendGrant hlive, Part.grantOrder_fresh hr hmay hwinh hfresh hleft]
    exact congrArg (fun q => Host.Outcome.next (s.withPart (Part.refreshErase q)))
      (Part.placement_order (p := { s.part.orderGranted with head.seqCounter := s.part.head.seqCounter + 1 })
        (a := ⟨.order r, s.part.head.seqCounter, false, .placing, 0, false, 0xFFFFFFFF, none⟩) hhead hend hlines rfl rfl)
  exact ⟨_, e.used + 1, s.part.orderAppend r a e, hexec, (congrArg Head.seqCounter hh :), (congrArg Head.append hh :), rfl, rfl,
    rfl, rfl, rfl, rfl, (congrArg Head.orderReq hh :), (congrArg Head.lastGranted hh :), hwaits, hmem, horders, hdir, hsegs,
    (congrArg Head.epochCounter hh :)⟩

/-- A claimed copy granted into a head with room (R11, R126, R127, R131). -/
theorem copyGrant_room {s : State} {c : CopyReq} {x : DirEntry} {a : SegAddr} {e : SegEntry} (hlive : s.part.live = true)
    (hc : s.part.head.copyReq = some c) (hmay : s.part.mayGrantCopy = true) (hx : dirLookup s.part.dir c.key = some x)
    (hloc : x.loc = c.loc) (hhead : s.part.headSeg = some (a, e)) (hend : e.used + 1 = e.goodEnd)
    (hlines : e.used + c.lines ≤ 126) :
    ∃ t ap, exec .copyGrant s = .next t ∧ t.part.head.append = some ap ∧ ap.work = .copy c ∧ ap.sequence = c.sequence
      ∧ ap.step = .programming a (e.used + 1) ∧ t.part.head.seqCounter = s.part.head.seqCounter
      ∧ t.part.head.copyReq = none ∧ t.part.head.lastGranted = .reclaimUnit
      ∧ (t.part.lane a.lane).waiting.head = some ⟨.programLine a.seg (e.used + 1) (copyLine c e.epoch 0), false⟩
      ∧ t.part.mem = s.part.mem ∧ t.part.orders = s.part.orders ∧ t.part.dir = s.part.dir ∧ t.part.segs = s.part.segs := by
  obtain ⟨hh, hmem, horders, hdir, hsegs, hwaits⟩ := (s.part.copyBegun c a e).place_head_refreshed a.lane
    ⟨.programLine a.seg (e.used + 1) (copyLine c e.epoch 0), false⟩
  have hexec : exec .copyGrant s = .next (s.withPart ((s.part.copyBegun c a e).place a.lane .head
      ⟨.programLine a.seg (e.used + 1) (copyLine c e.epoch 0), false⟩).refreshErase) := by
    rw [exec_copyGrant hlive, Part.grantCopy_claimed hc hmay hx hloc]
    exact congrArg (fun q => Host.Outcome.next (s.withPart (Part.refreshErase q)))
      (Part.placement_copy (p := s.part.copyGranted) (a := ⟨.copy c, c.sequence, false, .placing, 0, false, 0xFFFFFFFF, none⟩)
        hhead hend hlines rfl rfl)
  exact ⟨_, copyAppend c a e, hexec, (congrArg Head.append hh :), rfl, rfl, rfl, (congrArg Head.seqCounter hh :),
    (congrArg Head.copyReq hh :), (congrArg Head.lastGranted hh :), hwaits, hmem, horders, hdir, hsegs⟩

/-- Settles O55: the arbiter, the grants, placement, and how an order that ends is completed. -/
theorem orderGrantAssigns : Obligations.OrderGrantAssigns := by
  refine ⟨?_, ?_, ?_, ?_, ?_, fun p r => ⟨Part.finishRecord_none r, fun o => Part.finishRecord_some r⟩⟩
  · intro p order copy
    rw [p.mayGrantOrder_iff, p.mayGrantCopy_iff, p.orderEligible_iff, p.copyEligible_iff]
    exact ⟨Iff.rfl, Iff.rfl⟩
  · intro s hlive hno
    rw [exec_orderAppendGrant hlive, Part.grantOrder_kept hno]
  · intro s r hlive hr hmay hfresh q
    rw [exec_orderAppendGrant hlive]
    refine ⟨fun hwinh => ?_, fun hwinh hspent => ?_, fun a e hwinh hleft hhead hend hlines => ?_⟩
    · rw [Part.grantOrder_inhibited hr hmay hwinh, hfresh]
      rfl
    · rw [Part.grantOrder_spent hr hmay hwinh hfresh hspent]
      rfl
    · rw [← exec_orderAppendGrant hlive]
      exact orderGrant_room hlive hr hmay hfresh hwinh hleft hhead hend hlines
  · intro s r hlive hr hmay q
    rw [exec_orderAppendGrant hlive]
    refine ⟨fun hwinh => ?_, fun n hwinh hn => ?_, fun hwinh hfresh hleft => ?_⟩
    · rw [Part.grantOrder_inhibited hr hmay hwinh]
      rfl
    · rw [Part.grantOrder_again hr hmay hwinh hn]
      rfl
    · rw [Part.grantOrder_fresh hr hmay hwinh hfresh hleft]
      rfl
  · intro p a reserve
    have hreserve : reserve = a.work.reserve := by
      simp only [reserve]
      cases a.work <;> rfl
    rw [hreserve]
    refine ⟨Part.placement_open a, fun sg e hhead => ⟨Part.placement_room a hhead, Part.placement_unmet a hhead,
      Part.placement_closes a hhead⟩, Part.openSegment_unmet a, Part.openSegment_spent a, fun sg => Part.openSegment_opens a,
      fun r hw => ⟨fun hs hc => ?_, fun hno => ?_, p.endAppend_order hw⟩,
      fun c hw => ⟨p.reserveUnmet_copy hw, p.endAppend_copy hw .sequenceSpent⟩, rfl, rfl⟩
    · rw [p.reserveUnmet_order hw, if_pos ⟨hs, hc⟩]
    · rw [p.reserveUnmet_order hw, if_neg]
      rintro ⟨hs, hc⟩
      rcases hno with h | h
      · exact Bool.noConfusion (hs.symm.trans h)
      · exact h hc

/-- Settles O56. -/
theorem copyGrantChecksClaim : Obligations.CopyGrantChecksClaim := by
  refine ⟨fun s hlive hno => ?_, ?_⟩
  · rw [exec_copyGrant hlive, Part.grantCopy_kept hno]
  · intro s c hlive hc hmay q
    refine ⟨fun hunclaimed => ?_, fun x a e hx hloc hhead hend hlines => copyGrant_room hlive hc hmay hx hloc hhead hend hlines,
      fun x hx hloc => ?_⟩
    · rw [exec_copyGrant hlive, Part.grantCopy_unclaimed hc hmay hunclaimed]
      rfl
    · rw [exec_copyGrant hlive, Part.grantCopy_claimed hc hmay hx hloc]
      rfl

end Sys2Proof.Machine
end

section
/-! SUPPORT. The checks and line counts, the key directory's order and the segment table's choices (R4, R5, R8, R16 to R31, R48 to
R50). -/

namespace Sys2Proof.Machine

/-! ## Checks and line counts (R4, R5, R8) -/

theorem lineCount_le_iff (length k : Nat) : lineCount length ≤ k ↔ length + 20 ≤ 256 * k := by
  have hcount : lineCount length = (length + 275) / 256 := by
    rw [lineCount, recordHeaderSize, lineLength]
    congr 1
    omega
  rw [hcount]
  omega

/-- Settles O57, the three checks by evaluation. -/
theorem checksAndLineCounts : Obligations.ChecksAndLineCounts := by
  refine ⟨⟨by decide +kernel, by decide +kernel, by decide +kernel⟩, fun length h => ⟨?_, (lineCount_le_iff length 16).2 (by omega), fun k _ =>
    lineCount_le_iff length k⟩⟩
  by_contra hzero
  have := (lineCount_le_iff length 0).1 (by omega)
  omega

/-! ## Lookups after a change (R16, R20) -/

theorem dirLookup_cons (x : DirEntry) (d : List DirEntry) (key : Long) :
    dirLookup (x :: d) key = if x.key = key then some x else dirLookup d key := by
  rw [dirLookup, List.find?_cons]
  by_cases h : x.key = key
  · simp only [h, beq_self_eq_true, if_true]
  · simp only [beq_eq_false_iff_ne.2 h, if_neg h]
    rfl

theorem dirLookup_dirPut_same (e : DirEntry) (d : List DirEntry) : dirLookup (dirPut e d) e.key = some e := by
  induction d with
  | nil => rw [dirPut, dirLookup_cons, if_pos rfl]
  | cons x rest ih =>
    rw [dirPut]
    split
    · rw [dirLookup_cons, if_pos rfl]
    · split
      · rw [dirLookup_cons, if_pos rfl]
      · next hne => rw [dirLookup_cons, if_neg (Ne.symm hne), ih]

theorem dirLookup_dirPut_other (e : DirEntry) (d : List DirEntry) {key : Long} (h : key ≠ e.key) :
    dirLookup (dirPut e d) key = dirLookup d key := by
  induction d with
  | nil =>
    rw [dirPut, dirLookup_cons, if_neg (Ne.symm h)]
  | cons x rest ih =>
    rw [dirPut]
    split
    · rw [dirLookup_cons, if_neg (Ne.symm h)]
    · split
      · next heq => rw [dirLookup_cons, dirLookup_cons, if_neg (Ne.symm h), if_neg (heq ▸ Ne.symm h)]
      · rw [dirLookup_cons, dirLookup_cons, ih]

/-- A key below every entry's is absent. -/
theorem dirLookup_below {d : List DirEntry} {key : Long} (h : ∀ x ∈ d, key < x.key) : dirLookup d key = none :=
  List.find?_eq_none.2 fun x hx heq => absurd (h x hx) (by rw [beq_iff_eq.1 heq]; exact BitVec.lt_irrefl _)

theorem dirPut_length (e : DirEntry) {d : List DirEntry} (h : dirSorted d = true) :
    (dirPut e d).length = d.length + (if (dirLookup d e.key).isSome then 0 else 1) := by
  rw [dirSorted_iff_pairwise] at h
  induction d with
  | nil => rfl
  | cons x rest ih =>
    obtain ⟨hfirst, hrest⟩ := List.pairwise_cons.1 h
    rw [dirPut, dirLookup_cons]
    split
    · next hlt =>
      have hne : x.key ≠ e.key := fun heq => absurd hlt (by rw [heq]; exact BitVec.lt_irrefl _)
      rw [if_neg hne, dirLookup_below fun y hy => BitVec.lt_trans hlt (hfirst y hy)]
      rfl
    · split
      · next heq =>
        rw [if_pos heq.symm]
        rfl
      · next hne =>
        rw [if_neg (Ne.symm hne), List.length_cons, ih hrest, List.length_cons]
        omega

theorem dirLookup_dirRemove (d : List DirEntry) (key k : Long) :
    dirLookup (dirRemove key d) k = if k = key then none else dirLookup d k := by
  induction d with
  | nil => simp [dirRemove, dirLookup]
  | cons x rest ih =>
    rw [dirRemove, List.filter_cons]
    by_cases hx : x.key = key
    · have hout : ¬ (x.key != key) = true := by simp [hx]
      rw [if_neg hout, ← dirRemove, ih, dirLookup_cons]
      by_cases hk : k = key
      · rw [if_pos hk, if_pos hk]
      · rw [if_neg hk, if_neg hk, if_neg (hx ▸ Ne.symm hk)]
    · have hin : (x.key != key) = true := bne_iff_ne.2 hx
      rw [if_pos hin, ← dirRemove, dirLookup_cons, ih, dirLookup_cons]
      by_cases hk : k = key
      · rw [if_pos hk, if_pos hk, if_neg (hk ▸ hx)]
      · rw [if_neg hk, if_neg hk]

/-! ## The ordered lookup (R21) -/

theorem inWindow_iff (e : DirEntry) (cursor bound : Long) :
    (decide (cursor ≤ e.key) && decide (e.key ≤ bound)) = true ↔ cursor ≤ e.key ∧ e.key ≤ bound := by
  rw [Bool.and_eq_true, decide_eq_true_eq, decide_eq_true_eq]

theorem dirNext_none {d : List DirEntry} {cursor bound : Long} (h : dirNext d cursor bound = none) :
    ∀ x ∈ d, ¬ (cursor ≤ x.key ∧ x.key ≤ bound) := fun x hx hin =>
  List.find?_eq_none.1 h x hx ((inWindow_iff x cursor bound).2 hin)

theorem dirNext_some {d : List DirEntry} {cursor bound : Long} {e : DirEntry} (hsorted : dirSorted d = true)
    (h : dirNext d cursor bound = some e) : e ∈ d ∧ cursor ≤ e.key ∧ e.key ≤ bound
      ∧ ∀ x ∈ d, cursor ≤ x.key → x.key ≤ bound → e.key ≤ x.key := by
  obtain ⟨hin, before, later, rfl, hbefore⟩ := List.find?_eq_some_iff_append.1 h
  obtain ⟨hlo, hhi⟩ := (inWindow_iff e cursor bound).1 hin
  rw [dirSorted_iff_pairwise] at hsorted
  obtain ⟨-, hlater, -⟩ := List.pairwise_append.1 hsorted
  refine ⟨List.mem_append_right _ (List.mem_cons_self ..), hlo, hhi, fun x hx hxlo hxhi => ?_⟩
  rcases List.mem_append.1 hx with hx | hx
  · have hout := hbefore x hx
    rw [(inWindow_iff x cursor bound).2 ⟨hxlo, hxhi⟩] at hout
    exact absurd hout Bool.false_ne_true
  · rcases List.mem_cons.1 hx with rfl | hx
    · exact BitVec.le_refl _
    · exact BitVec.le_of_lt ((List.pairwise_cons.1 hlater).1 x hx)

/-- Settles O59. -/
theorem directoryOrder : Obligations.DirectoryOrder := by
  refine ⟨fun d hd => ⟨fun e => ⟨dirSorted_dirPut e hd, dirLookup_dirPut_same e d, fun k hk => dirLookup_dirPut_other e d hk,
    dirPut_length e hd⟩, fun key => ⟨dirSorted_dirRemove key hd, ?_, fun k hk => ?_⟩⟩,
    fun d cursor bound hd => ⟨fun e he => dirNext_some hd he, dirNext_none⟩, fun e d => ⟨fun hnone => ?_, fun old hold => ?_⟩⟩
  · rw [dirLookup_dirRemove, if_pos rfl]
  · rw [dirLookup_dirRemove, if_neg hk]
  · simp only [dirMount, hnone]
    rfl
  · simp only [dirMount, hold]
    split <;> rfl

end Sys2Proof.Machine
end

section
/-! SUPPORT. The rotation, the chain, the head and the free count (R48 to R50). -/

namespace Sys2Proof.Machine

/-! ## The rotation (R49) -/

/-- A search through a table answers the first index that has an answer. -/
theorem findSome?_ofFn {α β : Type} {n : Nat} {g : Fin n → α} {f : α → Option β} {b : β}
    (h : (List.ofFn g).findSome? f = some b) : ∃ k, f (g k) = some b ∧ ∀ j, j < k → f (g j) = none := by
  induction n with
  | zero => simp at h
  | succ n ih =>
    rw [List.ofFn_succ, List.findSome?_cons] at h
    cases hfirst : f (g 0) with
    | some c =>
      rw [hfirst] at h
      exact ⟨0, hfirst.trans h, fun j hj => absurd hj (Fin.not_lt_zero j)⟩
    | none =>
      rw [hfirst] at h
      obtain ⟨k, hk, hbefore⟩ := ih h
      refine ⟨k.succ, hk, fun j hj => ?_⟩
      cases j using Fin.cases with
      | zero => exact hfirst
      | succ j => exact hbefore j (Fin.succ_lt_succ_iff.1 hj)

theorem Part.rotationOrder_eq (p : Part) : p.rotationOrder = List.ofFn fun k : Fin 4 => p.lastHeadLane + 1 + k := by
  have h : ∀ last : Lane, [last + 1, last + 2, last + 3, last] = List.ofFn fun k : Fin 4 => last + 1 + k := by decide
  exact h p.lastHeadLane

theorem Part.mem_rotationOrder (p : Part) (l : Lane) : l ∈ p.rotationOrder := by
  have h : ∀ last l : Lane, l ∈ [last + 1, last + 2, last + 3, last] := by decide
  exact h p.lastHeadLane l

theorem Part.freeOn_some {p : Part} {l : Lane} {a : SegAddr} (h : p.freeOn l = some a) : a.lane = l ∧ p.present l = true
    ∧ (∃ e, (p.segs.get l)[a.seg]? = some e ∧ e.state = .free)
    ∧ ∀ i e, i < a.seg → (p.segs.get l)[i]? = some e → e.state ≠ .free := by
  unfold Part.freeOn at h
  split at h
  · next hpresent =>
    obtain ⟨i, hi, rfl⟩ := Option.map_eq_some_iff.1 h
    obtain ⟨hlen, hfree, hbefore⟩ := List.findIdx?_eq_some_iff_getElem.1 hi
    refine ⟨rfl, hpresent, ⟨_, List.getElem?_eq_getElem hlen, beq_iff_eq.1 hfree⟩, fun j e hj he hstate => ?_⟩
    obtain ⟨hjlen, rfl⟩ := List.getElem?_eq_some_iff.1 he
    exact hbefore j hj (beq_iff_eq.2 hstate)
  · exact absurd h (by simp)

theorem Part.freeOn_none_iff (p : Part) (l : Lane) : p.freeOn l = none ↔
    ∀ (i : Nat) (e : SegEntry), (p.segs.get l)[i]? = some e → ¬ (e.state = .free ∧ p.present l = true) := by
  unfold Part.freeOn
  split
  · next hpresent =>
    rw [Option.map_eq_none_iff, List.findIdx?_eq_none_iff]
    constructor
    · rintro h i e he ⟨hfree, -⟩
      have := h e (List.mem_of_getElem? he)
      rw [hfree] at this
      exact absurd this (by decide)
    · intro h e he
      obtain ⟨i, hi⟩ := List.getElem?_of_mem he
      exact beq_eq_false_iff_ne.2 fun hfree => h i e hi ⟨hfree, hpresent⟩
  · next habsent =>
    exact ⟨fun _ i e _ h => habsent h.2, fun _ => rfl⟩

theorem Part.rotation_some {p : Part} {a : SegAddr} (h : p.rotation = some a) :
    p.present a.lane = true ∧ (∃ e, (p.segs.get a.lane)[a.seg]? = some e ∧ e.state = .free)
      ∧ (∀ i e, i < a.seg → (p.segs.get a.lane)[i]? = some e → e.state ≠ .free)
      ∧ ∃ k : Fin 4, a.lane = p.lastHeadLane + 1 + k ∧ ∀ j : Fin 4, j < k → p.freeOn (p.lastHeadLane + 1 + j) = none := by
  rw [Part.rotation, Part.rotationOrder_eq] at h
  obtain ⟨k, hk, hbefore⟩ := findSome?_ofFn h
  obtain ⟨hlane, hpresent, hfree, hlow⟩ := Part.freeOn_some hk
  rw [← hlane] at hpresent hfree hlow
  exact ⟨hpresent, hfree, hlow, k, hlane, hbefore⟩

theorem Part.rotation_none_iff (p : Part) : p.rotation = none ↔ p.freeCount = 0 := by
  rw [Part.rotation, List.findSome?_eq_none_iff, Part.freeCount, List.countP_eq_zero]
  simp only [Bool.and_eq_true, beq_iff_eq]
  constructor
  · intro h x hx
    exact (p.freeOn_none_iff x.1.lane).1 (h _ (p.mem_rotationOrder _)) x.1.seg x.2 (Part.mem_entries_iff.1 hx)
  · intro h l _
    exact (p.freeOn_none_iff l).2 fun i e he => h (⟨l, i⟩, e) (Part.mem_entries_iff.2 he)

/-! ## The chain and the head (R48) -/

theorem SegState.inChain_iff (st : SegState) : st.inChain = true ↔ st = .head ∨ st = .closed ∨ st = .reclaiming := by
  cases st <;> decide

theorem Part.mem_chain_iff (p : Part) (x : SegAddr × SegEntry) : x ∈ p.chain ↔
    x ∈ p.entries ∧ (x.2.state = .head ∨ x.2.state = .closed ∨ x.2.state = .reclaiming) := by
  rw [Part.chain, List.mem_filter, SegState.inChain_iff]

theorem Part.headSeg_some {p : Part} {x : SegAddr × SegEntry} (h : p.headSeg = some x) : x ∈ p.entries ∧ x.2.state = .head :=
  ⟨List.mem_of_find?_eq_some h, beq_iff_eq.1 (List.find?_some (p := fun y : SegAddr × SegEntry => y.2.state == .head) h)⟩

theorem Part.headSeg_none_iff (p : Part) : p.headSeg = none ↔ ∀ x ∈ p.entries, x.2.state ≠ .head := by
  rw [Part.headSeg, List.find?_eq_none]
  simp only [beq_iff_eq, ne_eq]

/-! ## Extreme epochs (R48) -/

theorem lowestEpoch_none_iff (xs : List (SegAddr × SegEntry)) : lowestEpoch xs = none ↔ xs = [] := by
  cases xs with
  | nil => simp [lowestEpoch]
  | cons x rest =>
    rw [lowestEpoch]
    split
    · simp
    · split <;> simp

theorem highestEpoch_none_iff (xs : List (SegAddr × SegEntry)) : highestEpoch xs = none ↔ xs = [] := by
  cases xs with
  | nil => simp [highestEpoch]
  | cons x rest =>
    rw [highestEpoch]
    split
    · simp
    · split <;> simp

theorem lowestEpoch_le {xs : List (SegAddr × SegEntry)} {x : SegAddr × SegEntry} (h : lowestEpoch xs = some x) :
    ∀ y ∈ xs, x.2.epoch ≤ y.2.epoch := by
  induction xs generalizing x with
  | nil => simp
  | cons z rest ih =>
    rw [lowestEpoch] at h
    split at h
    · next hnone =>
      rw [lowestEpoch_none_iff] at hnone
      simp only [Option.some.injEq] at h
      subst h hnone
      simp
    · next w hw =>
      have hrest := ih hw
      split at h
      · next hlt =>
        simp only [Option.some.injEq] at h
        subst h
        exact List.forall_mem_cons.2 ⟨BitVec.le_of_lt hlt, hrest⟩
      · next hge =>
        simp only [Option.some.injEq] at h
        subst h
        exact List.forall_mem_cons.2 ⟨BitVec.le_refl _, fun y hy => BitVec.le_trans (BitVec.not_lt.1 hge) (hrest y hy)⟩

theorem highestEpoch_mem {xs : List (SegAddr × SegEntry)} {x : SegAddr × SegEntry} (h : highestEpoch xs = some x) : x ∈ xs := by
  induction xs generalizing x with
  | nil => simp [highestEpoch] at h
  | cons z rest ih =>
    rw [highestEpoch] at h
    split at h
    · simp_all
    · next w hw =>
      have hrest := ih hw
      split at h
      · simp_all
      · simp_all

theorem le_highestEpoch {xs : List (SegAddr × SegEntry)} {x : SegAddr × SegEntry} (h : highestEpoch xs = some x) :
    ∀ y ∈ xs, y.2.epoch ≤ x.2.epoch := by
  induction xs generalizing x with
  | nil => simp
  | cons z rest ih =>
    rw [highestEpoch] at h
    split at h
    · next hnone =>
      rw [highestEpoch_none_iff] at hnone
      simp only [Option.some.injEq] at h
      subst h hnone
      simp
    · next w hw =>
      have hrest := ih hw
      split at h
      · next hlt =>
        simp only [Option.some.injEq] at h
        subst h
        exact List.forall_mem_cons.2 ⟨BitVec.le_of_lt hlt, hrest⟩
      · next hge =>
        simp only [Option.some.injEq] at h
        subst h
        exact List.forall_mem_cons.2 ⟨BitVec.le_refl _, fun y hy => BitVec.le_trans (hrest y hy) (BitVec.not_lt.1 hge)⟩

/-- Settles O60. -/
theorem rotationChooses : Obligations.RotationChooses :=
  ⟨fun p => ⟨fun _ => Part.rotation_some, p.rotation_none_iff⟩,
    fun p a e => ⟨Part.mem_entries_iff, Part.seg_of_mem, p.mem_chain_iff (a, e), Part.headSeg_some, p.headSeg_none_iff, rfl⟩,
    fun xs => ⟨lowestEpoch_none_iff xs, highestEpoch_none_iff xs, fun _ h => ⟨lowestEpoch_mem h, lowestEpoch_le h⟩,
      fun _ h => ⟨highestEpoch_mem h, le_highestEpoch h⟩⟩⟩

end Sys2Proof.Machine
end

section
/-! SUPPORT. What is stored reads back: segment headers, trailers and record headers (R2, R4, R6, R7, R9, R10). -/

namespace Sys2Proof.Machine

/-! ## Fields of a line -/

theorem leField_lt (bytes : List Byte) (offset n : Nat) : leField bytes offset n < 256 ^ n :=
  Nat.lt_of_lt_of_le (leNat_lt _) (Nat.pow_le_pow_right (by decide) (List.length_take_le ..))

theorem leField_append_skip (xs ys : List Byte) {offset n : Nat} (h : xs.length ≤ offset) :
    leField (xs ++ ys) offset n = leField ys (offset - xs.length) n := by
  rw [leField, leField, List.drop_append, List.drop_eq_nil_of_le h, List.nil_append]

theorem leField_leBytes_skip (k v : Nat) (ys : List Byte) {offset n : Nat} (h : k ≤ offset) :
    leField (leBytes k v ++ ys) offset n = leField ys (offset - k) n := by
  rw [leField_append_skip _ _ ((leBytes_length k v).symm ▸ h), leBytes_length]

theorem leField_leBytes (n v : Nat) (ys : List Byte) : leField (leBytes n v ++ ys) 0 n = v % 256 ^ n := by
  rw [leField, List.drop_zero, List.take_left' (leBytes_length n v), leNat_leBytes]

theorem long_of_leField (bytes : List Byte) (offset : Nat) :
    (BitVec.ofNat 32 (leField bytes offset 4)).toNat = leField bytes offset 4 := by
  exact (BitVec.toNat_ofNat ..).trans (Nat.mod_eq_of_lt (leField_lt bytes offset 4))

theorem word_of_leField (bytes : List Byte) (offset : Nat) :
    (BitVec.ofNat 16 (leField bytes offset 2)).toNat = leField bytes offset 2 := by
  exact (BitVec.toNat_ofNat ..).trans (Nat.mod_eq_of_lt (leField_lt bytes offset 2))

/-! ## The judgments (R2, R4, R6, R9, R10) -/

theorem blankLine_iff (bytes : List Byte) : blankLine bytes = true ↔ ∀ b ∈ bytes, b = 0xFF := by
  simp only [blankLine, List.all_eq_true, beq_iff_eq]

/-- A line whose first byte is not FFhex is not blank. -/
theorem blankLine_cons {b : Byte} (rest : List Byte) (h : b ≠ 0xFF) : blankLine (b :: rest) = false :=
  Bool.eq_false_iff.2 fun hblank => h ((blankLine_iff _).1 hblank b (List.mem_cons_self ..))

theorem judgeHeader_blank_iff (a : SegAddr) (bytes : List Byte) : judgeHeader a bytes = .blank ↔ blankLine bytes = true := by
  unfold judgeHeader
  split
  · next h => simp only [h]
  · next h =>
    simp only [h, Bool.false_eq_true, iff_false]
    split <;> exact HeaderJudgment.noConfusion

theorem judgeHeader_valid_iff (a : SegAddr) (bytes : List Byte) (epoch : Long) : judgeHeader a bytes = .valid epoch ↔
    blankLine bytes = false ∧ leField bytes 0 4 = 0x5A3C96E1 ∧ leField bytes 4 4 = epoch.toNat
      ∧ (epoch ≠ 0 ∧ epoch ≠ 0xFFFFFFFF) ∧ leField bytes 8 2 = a.seg ∧ leField bytes 10 1 = a.lane.val
      ∧ leField bytes 11 2 = (crc16 (bytes.take 11)).toNat := by
  have hepoch : headerEpoch bytes = epoch ↔ leField bytes 4 4 = epoch.toNat := by
    rw [← BitVec.toNat_inj, headerEpoch, long_of_leField]
  unfold judgeHeader
  split
  · next h => simp [h]
  · next h =>
    split
    · next hc =>
      simp only [Bool.and_eq_true, beq_iff_eq, validLong_iff] at hc
      obtain ⟨⟨⟨⟨hmark, hcrc⟩, hvalid⟩, hseg⟩, hlane⟩ := hc
      rw [HeaderJudgment.valid.injEq, ← hepoch, Bool.not_eq_true] at *
      constructor
      · rintro rfl
        exact ⟨h, hmark, rfl, hvalid, hseg, hlane, hcrc⟩
      · exact fun hall => hall.2.2.1
    · next hc =>
      simp only [Bool.and_eq_true, beq_iff_eq, validLong_iff, not_and] at hc
      refine ⟨fun hno => HeaderJudgment.noConfusion hno, ?_⟩
      rintro ⟨-, hmark, he, hvalid, hseg, hlane, hcrc⟩
      rw [← hepoch] at he
      subst he
      exact absurd hlane (hc ⟨⟨⟨hmark, hcrc⟩, hvalid⟩, hseg⟩)

theorem judgeTrailer_iff (epoch : Long) (bytes : List Byte) (g k : Nat) : judgeTrailer epoch bytes = some (g, k) ↔
    leField bytes 0 4 = 0xE1963C5A ∧ leField bytes 4 4 = epoch.toNat ∧ leField bytes 8 1 = g ∧ leField bytes 9 2 = k
      ∧ leField bytes 11 2 = (crc16 (bytes.take 11)).toNat ∧ 1 ≤ g ∧ g ≤ 127 ∧ k ≤ 126 ∧ k ≤ g - 1 := by
  simp only [judgeTrailer, Option.ite_none_right_eq_some, Option.some.injEq, Prod.mk.injEq, Bool.and_eq_true, beq_iff_eq,
    decide_eq_true_eq]
  constructor
  · rintro ⟨⟨⟨⟨⟨⟨⟨hmark, hcrc⟩, he⟩, h1⟩, h2⟩, h3⟩, h4⟩, rfl, rfl⟩
    exact ⟨hmark, he, rfl, rfl, hcrc, h1, h2, h3, h4⟩
  · rintro ⟨hmark, he, rfl, rfl, hcrc, h1, h2, h3, h4⟩
    exact ⟨⟨⟨⟨⟨⟨⟨hmark, hcrc⟩, he⟩, h1⟩, h2⟩, h3⟩, h4⟩, rfl, rfl⟩

theorem headerCheckOk_iff (bytes : List Byte) :
    headerCheckOk bytes = true ↔ leField bytes 14 2 = (crc16 (bytes.take 14)).toNat := by
  rw [headerCheckOk, beq_iff_eq]

theorem epochTag_eq (epoch : Long) : epochTag epoch = epoch.extractLsb' 0 16 := by
  rw [epochTag, BitVec.setWidth_eq_extractLsb' (by decide)]

theorem headerValid_iff (epoch : Long) (n : Nat) (bytes : List Byte) : headerValid epoch n bytes = true ↔
    headerCheckOk bytes = true ∧ ((readHeader bytes).kind = 1 ∨ (readHeader bytes).kind = 2)
      ∧ (readHeader bytes).flags &&& 0xFE = 0 ∧ (readHeader bytes).length ≤ 4076
      ∧ ((readHeader bytes).kind = 2 → (readHeader bytes).length = 0)
      ∧ ((readHeader bytes).key ≠ 0 ∧ (readHeader bytes).key ≠ 0xFFFFFFFF)
      ∧ ((readHeader bytes).sequence ≠ 0 ∧ (readHeader bytes).sequence ≠ 0xFFFFFFFF)
      ∧ (readHeader bytes).tag = epoch.extractLsb' 0 16 ∧ n + lineCount (readHeader bytes).length - 1 ≤ 126 := by
  simp only [headerValid, flagsOk, Bool.and_eq_true, Bool.or_eq_true, beq_iff_eq, bne_iff_ne, decide_eq_true_eq, validLong_iff,
    epochTag_eq, and_assoc, ne_eq, ← imp_iff_not_or]
  rfl

/-! ## Segment headers and trailers as stored (R6, R10) -/

theorem fillLine_length {bytes : List Byte} (h : bytes.length ≤ 256) : (fillLine bytes).length = 256 := by
  rw [fillLine, List.length_append, List.length_replicate, lineLength]
  omega

/-- A line of eleven covered bytes, their check and the fill. -/
def checkedLine (mark epoch x y : Nat) (kx ky : Nat) : List Byte :=
  leBytes 4 mark ++ leBytes 4 epoch ++ leBytes kx x ++ leBytes ky y

section
variable {mark epoch x y kx ky : Nat} (hk : kx + ky = 3)
include hk

theorem checkedLine_length : (checkedLine mark epoch x y kx ky).length = 11 := by
  simp only [checkedLine, List.length_append, leBytes_length]
  omega

theorem checkedLine_filled_length :
    (fillLine (checkedLine mark epoch x y kx ky ++ leBytes 2 (crc16 (checkedLine mark epoch x y kx ky)).toNat)).length = 256 := by
  refine fillLine_length ?_
  rw [List.length_append, checkedLine_length hk, leBytes_length]
  decide

/-- The fields of such a line as they read back, its check among them. -/
theorem checkedLine_fields (bytes : List Byte)
    (h : bytes = fillLine (checkedLine mark epoch x y kx ky ++ leBytes 2 (crc16 (checkedLine mark epoch x y kx ky)).toNat)) :
    leField bytes 0 4 = mark % 256 ^ 4 ∧ leField bytes 4 4 = epoch % 256 ^ 4 ∧ leField bytes 8 kx = x % 256 ^ kx
      ∧ leField bytes (8 + kx) ky = y % 256 ^ ky ∧ leField bytes 11 2 = (crc16 (bytes.take 11)).toNat := by
  have hcovered : bytes.take 11 = checkedLine mark epoch x y kx ky := by
    rw [h, fillLine, List.append_assoc, List.take_left' (checkedLine_length hk)]
  rw [hcovered, h, fillLine]
  generalize crc16 (checkedLine mark epoch x y kx ky) = crc
  have hcrc : crc.toNat % 256 ^ 2 = crc.toNat := Nat.mod_eq_of_lt crc.isLt
  simp only [checkedLine, List.append_assoc]
  refine ⟨leField_leBytes .., ?_, ?_, ?_, ?_⟩
  · rw [leField_leBytes_skip _ _ _ (by omega), leField_leBytes]
  · rw [leField_leBytes_skip _ _ _ (by omega), leField_leBytes_skip _ _ _ (by omega), leField_leBytes]
  · rw [leField_leBytes_skip _ _ _ (by omega), leField_leBytes_skip _ _ _ (by omega), leField_leBytes_skip _ _ _ (by omega),
      show 8 + kx - 4 - 4 - kx = 0 by omega, leField_leBytes]
  · rw [leField_leBytes_skip _ _ _ (by omega), leField_leBytes_skip _ _ _ (by omega), leField_leBytes_skip _ _ _ (by omega),
      leField_leBytes_skip _ _ _ (by omega), show 11 - 4 - 4 - kx - ky = 0 by omega, leField_leBytes, hcrc]

end

theorem segmentHeader_eq (epoch : Long) (a : SegAddr) : segmentHeader epoch a = fillLine
    (checkedLine formatMark epoch.toNat a.seg a.lane.val 2 1
      ++ leBytes 2 (crc16 (checkedLine formatMark epoch.toNat a.seg a.lane.val 2 1)).toNat) := rfl

theorem trailer_eq (epoch : Long) (goodEnd records : Nat) : trailer epoch goodEnd records = fillLine
    (checkedLine trailerMark epoch.toNat goodEnd records 1 2
      ++ leBytes 2 (crc16 (checkedLine trailerMark epoch.toNat goodEnd records 1 2)).toNat) := rfl

theorem judgeHeader_segmentHeader {a : SegAddr} {epoch : Long} (hseg : a.seg < 1024) (hvalid : epoch ≠ 0 ∧ epoch ≠ 0xFFFFFFFF) :
    judgeHeader a (segmentHeader epoch a) = .valid epoch := by
  obtain ⟨hmark, hepoch, hs, hl, hcrc⟩ := checkedLine_fields (by decide) _ (segmentHeader_eq epoch a)
  have hlane := a.lane.isLt
  refine (judgeHeader_valid_iff _ _ _).2 ⟨blankLine_cons _ (by decide), hmark, ?_, hvalid, ?_, ?_, hcrc⟩
  · exact hepoch.trans (Nat.mod_eq_of_lt epoch.isLt)
  · rw [hs, Nat.mod_eq_of_lt (by omega)]
  · rw [hl, Nat.mod_eq_of_lt (by omega)]

theorem judgeTrailer_trailer {epoch : Long} {goodEnd records : Nat} (h1 : 1 ≤ goodEnd) (h127 : goodEnd ≤ 127)
    (hrecords : records ≤ goodEnd - 1) : judgeTrailer epoch (trailer epoch goodEnd records) = some (goodEnd, records) := by
  obtain ⟨hmark, hepoch, hg, hr, hcrc⟩ := checkedLine_fields (by decide) _ (trailer_eq epoch goodEnd records)
  refine (judgeTrailer_iff _ _ _ _).2 ⟨hmark, ?_, ?_, ?_, hcrc, h1, h127, by omega, hrecords⟩
  · exact hepoch.trans (Nat.mod_eq_of_lt epoch.isLt)
  · rw [hg, Nat.mod_eq_of_lt (by omega)]
  · rw [hr, Nat.mod_eq_of_lt (by omega)]

/-! ## Record headers as stored (R7) -/

section
variable (tomb copied : Bool) (length : Nat) (key sequence epoch : Long) (rest : List Byte)

/-- The bytes of a record header that its check covers. -/
def headerCovered : List Byte :=
  [if tomb then 2 else 1, if copied then 1 else 0] ++ leBytes 2 length ++ leBytes 4 key.toNat ++ leBytes 4 sequence.toNat
    ++ leBytes 2 (epochTag epoch).toNat

theorem recordHeader_eq : recordHeader tomb copied length key sequence epoch = headerCovered tomb copied length key sequence epoch
    ++ leBytes 2 (crc16 (headerCovered tomb copied length key sequence epoch)).toNat := rfl

theorem headerCovered_length : (headerCovered tomb copied length key sequence epoch).length = 14 := by
  simp only [headerCovered, List.length_append, leBytes_length, List.length_cons, List.length_nil]

theorem headerCheckOk_recordHeader : headerCheckOk (recordHeader tomb copied length key sequence epoch ++ rest) = true := by
  have hlen := headerCovered_length tomb copied length key sequence epoch
  rw [headerCheckOk_iff, recordHeader_eq, List.append_assoc, List.take_left' hlen, leField_append_skip _ _ (by omega), hlen]
  exact (leField_leBytes ..).trans (Nat.mod_eq_of_lt (BitVec.isLt _))

theorem readHeader_recordHeader (hlength : length ≤ 4076) :
    readHeader (recordHeader tomb copied length key sequence epoch ++ rest)
      = ⟨if tomb then 2 else 1, if copied then 1 else 0, length, key, sequence, epochTag epoch⟩ := by
  have hpair : ∀ (a b : Byte) (ys : List Byte) {o n : Nat}, 2 ≤ o → leField ([a, b] ++ ys) o n = leField ys (o - 2) n :=
    fun a b ys _ _ h => leField_append_skip [a, b] ys h
  rw [recordHeader_eq, headerCovered]
  generalize crc16 _ = crc
  simp only [List.append_assoc]
  have hlen := Nat.mod_eq_of_lt (show length < 256 ^ 2 by omega)
  have hkey := Nat.mod_eq_of_lt (show key.toNat < 256 ^ 4 from key.isLt)
  have hseq := Nat.mod_eq_of_lt (show sequence.toNat < 256 ^ 4 from sequence.isLt)
  have htag := Nat.mod_eq_of_lt (show (epochTag epoch).toNat < 256 ^ 2 from (epochTag epoch).isLt)
  rw [readHeader, RecHeader.mk.injEq]
  refine ⟨rfl, rfl, ?_, ?_, ?_, ?_⟩
  · rw [hpair _ _ _ (by decide), leField_leBytes, hlen]
  · rw [hpair _ _ _ (by decide), leField_leBytes_skip _ _ _ (by decide), leField_leBytes, hkey, BitVec.ofNat_toNat,
      BitVec.setWidth_eq]
  · rw [hpair _ _ _ (by decide), leField_leBytes_skip _ _ _ (by decide), leField_leBytes_skip _ _ _ (by decide), leField_leBytes,
      hseq, BitVec.ofNat_toNat, BitVec.setWidth_eq]
  · rw [hpair _ _ _ (by decide), leField_leBytes_skip _ _ _ (by decide), leField_leBytes_skip _ _ _ (by decide),
      leField_leBytes_skip _ _ _ (by decide), leField_leBytes, htag, BitVec.ofNat_toNat, BitVec.setWidth_eq]

end

/-- Settles O58. -/
theorem storedHeadersReadBack : Obligations.StoredHeadersReadBack := by
  refine ⟨fun a epoch goodEnd records hseg h0 hF => ⟨judgeHeader_segmentHeader hseg ⟨h0, hF⟩,
    checkedLine_filled_length (by decide), fun h1 h127 hr => ⟨judgeTrailer_trailer h1 h127 hr,
      checkedLine_filled_length (by decide)⟩⟩, ?_, ?_⟩
  · intro tomb copied length n key sequence epoch rest hlength htomb hk0 hkF hs0 hsF hfits bytes
    have hread := readHeader_recordHeader tomb copied length key sequence epoch rest hlength
    have hcheck := headerCheckOk_recordHeader tomb copied length key sequence epoch rest
    refine ⟨hcheck, (headerValid_iff epoch n bytes).2 ?_, ?_⟩
    · simp only [bytes, hread]
      refine ⟨hcheck, ?_, ?_, hlength, ?_, ⟨hk0, hkF⟩, ⟨hs0, hsF⟩, epochTag_eq epoch, by omega⟩
      · cases tomb <;> decide
      · cases copied <;> decide
      · cases tomb with
        | false => exact fun h => absurd h (by decide)
        | true => exact fun _ => htomb rfl
    · simp only [bytes, hread]
      exact ⟨trivial, trivial, trivial, trivial, trivial, epochTag_eq epoch⟩
  · intro bytes a epoch n field valid h
    exact ⟨blankLine_iff bytes, judgeHeader_blank_iff a bytes, judgeHeader_valid_iff a bytes epoch, judgeTrailer_iff epoch bytes,
      headerCheckOk_iff bytes, ⟨rfl, rfl, rfl, long_of_leField bytes 4, long_of_leField bytes 8, word_of_leField bytes 12⟩,
      headerValid_iff epoch n bytes⟩

end Sys2Proof.Machine
end

section
/-! SUPPORT. The survey record, field by field, and the SURVEY order (R95, R122). -/

namespace Sys2Proof.Machine

/-! ## Fields laid one after another -/

/-- The little-endian bytes of fields, each a width and a value, one after another. -/
def fieldBytes (fields : List (Nat × Nat)) : List Byte := fields.flatMap fun x => leBytes x.1 x.2

/-- The bytes that fields take. -/
def fieldsWidth (fields : List (Nat × Nat)) : Nat := (fields.map (·.1)).sum

theorem fieldBytes_length (fields : List (Nat × Nat)) : (fieldBytes fields).length = fieldsWidth fields := by
  simp only [fieldBytes, fieldsWidth, List.length_flatMap, leBytes_length]

/-- A field reads back at the offset that the fields before it leave. -/
theorem leField_fieldBytes {fields : List (Nat × Nat)} {i w v : Nat} (h : fields[i]? = some (w, v)) (rest : List Byte) :
    leField (fieldBytes fields ++ rest) (fieldsWidth (fields.take i)) w = v % 256 ^ w := by
  induction fields generalizing i with
  | nil => simp at h
  | cons x later ih =>
    have hcons : fieldBytes (x :: later) ++ rest = leBytes x.1 x.2 ++ (fieldBytes later ++ rest) := by
      rw [fieldBytes, List.flatMap_cons, List.append_assoc]
      rfl
    rw [hcons]
    cases i with
    | zero =>
      obtain rfl : x = (w, v) := Option.some.inj h
      exact leField_leBytes ..
    | succ i =>
      have hwidth : fieldsWidth ((x :: later).take (i + 1)) = x.1 + fieldsWidth (later.take i) := by
        rw [List.take_succ_cons, fieldsWidth, List.map_cons, List.sum_cons]
        rfl
      rw [hwidth, leField_leBytes_skip _ _ _ (Nat.le_add_right ..), Nat.add_sub_cancel_left]
      exact ih h

/-! ## Lane sets (R74) -/

/-- The bits of a byte made of four flags. -/
theorem laneBits (b0 b1 b2 b3 : Bool) :
    let b : Byte := (if b0 then 1 else 0) ||| (if b1 then 2 else 0) ||| (if b2 then 4 else 0) ||| (if b3 then 8 else 0)
    (b.getLsbD 0 = b0 ∧ b.getLsbD 1 = b1 ∧ b.getLsbD 2 = b2 ∧ b.getLsbD 3 = b3) ∧ b.toNat < 16 := by
  revert b0 b1 b2 b3
  decide

theorem lane_cases (l : Lane) : l = 0 ∨ l = 1 ∨ l = 2 ∨ l = 3 := by
  revert l
  decide

theorem Part.laneSet_getLsbD (p : Part) (f : LaneState → Bool) (l : Lane) :
    (p.laneSet f).getLsbD l.val = f (p.lane l).state := by
  obtain ⟨⟨h0, h1, h2, h3⟩, -⟩ :=
    laneBits (f (p.lane 0).state) (f (p.lane 1).state) (f (p.lane 2).state) (f (p.lane 3).state)
  rcases lane_cases l with rfl | rfl | rfl | rfl
  · exact h0
  · exact h1
  · exact h2
  · exact h3

theorem Part.laneSet_lt (p : Part) (f : LaneState → Bool) : (p.laneSet f).toNat < 16 := (laneBits _ _ _ _).2

/-! ## The survey record (R95) -/

/-- The fields of the survey record, by R95's table. -/
def Part.surveyFields (p : Part) : List (Nat × Nat) :=
  [(1, p.mount.outcome), (1, (p.laneSet LaneState.inPresentSet).toNat), (1, (p.laneSet (· == .absent)).toNat),
    (1, (p.laneSet (· == .offline)).toNat), (2, (p.lane 0).count), (2, (p.lane 1).count), (2, (p.lane 2).count),
    (2, (p.lane 3).count), (2, p.countSegs SegState.inChain), (2, p.freeCount),
    (2, p.countSegs fun s => s == .eraseWait || s == .erasing), (2, p.countSegs (· == .bad)), (2, p.mount.damaged),
    (2, liveCount p.dir), (2, goneCount p.dir), (2, 0), (4, p.head.seqCounter.toNat), (4, p.head.epochCounter.toNat),
    (1, p.reclaim.state.code), (1, if p.saturation then 1 else 0), (1, p.power.state.code), (1, 0), (1, p.orders.lowMark),
    (1, p.orders.highMark), (1, p.orders.postMark), (1, p.bus.cfgSel.toNat)]

theorem Part.surveyRecord_eq (p : Part) : p.surveyRecord = fieldBytes p.surveyFields ++ List.replicate 20 0 := by
  have hone : ∀ v : Nat, leBytes 1 v = [BitVec.ofNat 8 v] := fun _ => rfl
  have hbyte : ∀ b : Byte, BitVec.ofNat 8 b.toNat = b := fun b => by rw [BitVec.ofNat_toNat, BitVec.setWidth_eq]
  unfold Part.surveyRecord Part.surveyFields fieldBytes
  simp only [List.append_assoc, List.flatMap_cons, List.flatMap_nil, hone, hbyte, List.nil_append, List.append_nil,
    List.cons_append]

/-- The widths of the survey record's fields. -/
def surveyWidths : List Nat := [1, 1, 1, 1, 2, 2, 2, 2, 2, 2, 2, 2, 2, 2, 2, 2, 4, 4, 1, 1, 1, 1, 1, 1, 1, 1]

theorem Part.surveyFields_take (p : Part) (i : Nat) : fieldsWidth (p.surveyFields.take i) = (surveyWidths.take i).sum := by
  rw [fieldsWidth, List.map_take]
  rfl

theorem Part.surveyFields_width (p : Part) : fieldsWidth p.surveyFields = 44 := p.surveyFields_take 26

/-- A field of the survey record reads back. -/
theorem Part.surveyField_eq (p : Part) (i : Nat) {offset w v : Nat} (h : p.surveyFields[i]? = some (w, v))
    (hoffset : (surveyWidths.take i).sum = offset) : p.surveyField offset w = v % 256 ^ w := by
  rw [← hoffset, ← p.surveyFields_take, Part.surveyField, p.surveyRecord_eq]
  exact leField_fieldBytes h _

/-- A field whose value has its width reads back as that value. -/
theorem Part.surveyField_exact (p : Part) (i : Nat) {offset w v : Nat} (h : p.surveyFields[i]? = some (w, v))
    (hoffset : (surveyWidths.take i).sum = offset) (hfits : v < 256 ^ w) : p.surveyField offset w = v := by
  rw [p.surveyField_eq i h hoffset, Nat.mod_eq_of_lt hfits]

theorem Part.surveyRecord_length (p : Part) : p.surveyRecord.length = 64 := by
  rw [p.surveyRecord_eq, List.length_append, fieldBytes_length, p.surveyFields_width, List.length_replicate]

theorem Part.surveyRecord_tail (p : Part) : p.surveyRecord.drop 44 = List.replicate 20 0 := by
  rw [p.surveyRecord_eq, List.drop_left' ((fieldBytes_length _).trans p.surveyFields_width)]

/-- The lane sets and the lanes' segment counts. -/
theorem Part.survey_lanes (p : Part) (l : Lane) :
    (BitVec.ofNat 8 (p.surveyField 1 1)).getLsbD l.val = decide ((p.lane l).state = .present ∨ (p.lane l).state = .offline)
      ∧ (BitVec.ofNat 8 (p.surveyField 2 1)).getLsbD l.val = decide ((p.lane l).state = .absent)
      ∧ (BitVec.ofNat 8 (p.surveyField 3 1)).getLsbD l.val = decide ((p.lane l).state = .offline)
      ∧ p.surveyField (4 + 2 * l.val) 2 = (p.lane l).count % 65536 := by
  have hset : ∀ f : LaneState → Bool, (BitVec.ofNat 8 (p.laneSet f).toNat).getLsbD l.val = f (p.lane l).state := fun f => by
    rw [BitVec.ofNat_toNat, BitVec.setWidth_eq, p.laneSet_getLsbD]
  have hpresent : p.surveyField 1 1 = (p.laneSet LaneState.inPresentSet).toNat := p.surveyField_exact 1 rfl rfl (BitVec.isLt _)
  have habsent : p.surveyField 2 1 = (p.laneSet (· == .absent)).toNat := p.surveyField_exact 2 rfl rfl (BitVec.isLt _)
  have hoffline : p.surveyField 3 1 = (p.laneSet (· == .offline)).toNat := p.surveyField_exact 3 rfl rfl (BitVec.isLt _)
  rw [hpresent, habsent, hoffline, hset, hset, hset]
  refine ⟨?_, ?_, ?_, ?_⟩
  · cases (p.lane l).state <;> rfl
  · cases (p.lane l).state <;> rfl
  · cases (p.lane l).state <;> rfl
  · rcases lane_cases l with rfl | rfl | rfl | rfl
    · exact p.surveyField_eq 4 rfl rfl
    · exact p.surveyField_eq 5 rfl rfl
    · exact p.surveyField_eq 6 rfl rfl
    · exact p.surveyField_eq 7 rfl rfl

theorem Part.countSegs_congr (p : Part) {f g : SegState → Bool} (h : ∀ st, f st = g st) : p.countSegs f = p.countSegs g :=
  congrArg p.countSegs (funext h)

/-- Settles O49, the record field by field. -/
theorem surveyWrites : Obligations.SurveyWrites := by
  refine ⟨fun p => ?_, fun s n f hlive h hcheck hkind hrecord => (exec_survey s).trans (run_dispatch_taken hlive h
    hcheck (beq_iff_eq.2 hkind) ((Part.recordFree_iff _).2 hrecord))⟩
  intro f segs
  have hchain : p.countSegs SegState.inChain = p.countSegs fun st => st == .head || st == .closed || st == .reclaiming :=
    p.countSegs_congr fun st => by cases st <;> rfl
  have hlive : liveCount p.dir = p.dir.countP fun x => x.gone == false :=
    List.countP_congr fun x _ => by cases x.gone <;> decide
  have hset : ∀ {i offset : Nat} (g : LaneState → Bool), p.surveyFields[i]? = some (1, (p.laneSet g).toNat) →
      (surveyWidths.take i).sum = offset → f offset 1 < 16 := fun {i _} g hi hoffset => by
    show p.surveyField _ 1 < 16
    rw [p.surveyField_exact i hi hoffset (BitVec.isLt _)]
    exact p.laneSet_lt g
  refine ⟨p.surveyRecord_length, p.surveyField_eq 0 rfl rfl, p.survey_lanes, hset (i := 1) _ rfl rfl, hset (i := 2) _ rfl rfl,
    hset (i := 3) _ rfl rfl, ?_, p.surveyField_eq 9 rfl rfl, p.surveyField_eq 10 rfl rfl, p.surveyField_eq 11 rfl rfl,
    p.surveyField_eq 12 rfl rfl, ?_, p.surveyField_eq 14 rfl rfl, p.surveyField_eq 15 rfl rfl,
    p.surveyField_exact 16 rfl rfl (BitVec.isLt _), p.surveyField_exact 17 rfl rfl (BitVec.isLt _),
    p.surveyField_exact 18 rfl rfl ?_, p.surveyField_exact 19 rfl rfl ?_, p.surveyField_exact 20 rfl rfl ?_,
    p.surveyField_eq 21 rfl rfl, p.surveyField_eq 22 rfl rfl, p.surveyField_eq 23 rfl rfl, p.surveyField_eq 24 rfl rfl,
    p.surveyField_exact 25 rfl rfl ?_, p.surveyRecord_tail⟩
  · exact (p.surveyField_eq 8 rfl rfl).trans (congrArg (· % 65536) hchain)
  · exact (p.surveyField_eq 13 rfl rfl).trans (congrArg (· % 65536) hlive)
  · cases p.reclaim.state <;> decide
  · cases p.saturation <;> decide
  · cases p.power.state <;> decide
  · exact Nat.lt_trans p.bus.cfgSel.isLt (by decide)

end Sys2Proof.Machine
end
